-- ==== Sys2Proof/Word.lean ====
section
/-! DEFINITION. The value types of 00_scope.md R6: bytes, 32-bit and 64-bit words, and a 64-byte block. All values are
unsigned (R5); `+`, `&&&`, `|||`, `^^^`, `~~~`, `<<<` and `>>>` on these types are the operators R6 lists, each modulo
the width. -/

namespace Sys2Proof

/-- `Byte` of 00_scope.md R6. -/
abbrev Byte := BitVec 8

/-- `Word32` of 00_scope.md R6. -/
abbrev Word32 := BitVec 32

/-- `Word64` of 00_scope.md R6. -/
abbrev Word64 := BitVec 64

/-- One 64-byte block; byte 0 is the first byte in message order (00_scope.md R7). -/
abbrev Block := Vector Byte 64

/-- Four bytes packed big-endian, the first in bits [31:24] (20_memory.md R53). -/
def bigEndian (b0 b1 b2 b3 : Byte) : Word32 := b0 ++ b1 ++ b2 ++ b3

end Sys2Proof
end

