-- ==== Sys2Proof/Config.lean ====
section
/-! DEFINITION. What an implementation of SHA1CORE fixes (00_scope.md R3, R4) and the free values: what the spec leaves
unspecified is an opaque constant with no body, so no proof can see its value. -/

namespace Sys2Proof

/-- MAX_MSG_BYTES of 00_scope.md R3: the longest message, in bytes. -/
def maxMsgBytes : Nat := 2 ^ 61 - 1

/-- The open latencies of 00_scope.md R4 (U16), in clock cycles. They are an input of the machine: `State` carries them
and no step changes them, so a statement about every state holds for every choice of them (log entry 7). N_INSTANCES is
the length of a `Platform`. -/
structure Params where
  latInit   : Nat
  latBlock  : Nat
  latFinal1 : Nat
  latFinal2 : Nat
  latErr    : Nat
  deriving DecidableEq, Repr

/-- "integer ≥ 1", for each latency (00_scope.md R4). -/
abbrev Params.WellFormed (p : Params) : Prop :=
  1 ≤ p.latInit ∧ 1 ≤ p.latBlock ∧ 1 ≤ p.latFinal1 ∧ 1 ≤ p.latFinal2 ∧ 1 ≤ p.latErr

/-- The smallest latencies R4 allows. DESIGN CHOICE (log entry 7): `State.reset` carries them, and no statement rests on
them. -/
def Params.smallest : Params := ⟨1, 1, 1, 1, 1⟩

/-! ## Free values

Each takes the model's edge index `State.freeIndex`, so the value may differ from edge to edge (log entries 3 and 4). -/

/-- The `digest` port while `busy = 1` (10_state.md R29, U3). -/
opaque Config.busyDigest : Nat → BitVec 160

/-- The `count` port while `busy = 1` (10_state.md R31, U3). -/
opaque Config.busyCount : Nat → Word64

/-- `status[1:0]` while `busy = 1` (10_state.md R30, U4). -/
opaque Config.busyPhase : Nat → BitVec 2

/-- `status[7:4]` while `busy = 1` (10_state.md R30, U4). -/
opaque Config.busyErrCode : Nat → BitVec 4

/-- `status[9:8]` while `busy = 1` (10_state.md R30, U4). -/
opaque Config.busyNpad : Nat → BitVec 2

/-- Hidden 32-bit registers between commands and after reset (U6): the second argument numbers them, 0..4 for a..e and
5 + i for W[i]. -/
opaque Config.hiddenWord : Nat → Nat → Word32

/-- Bytes of the hidden buffers between commands and after reset (U6): the second argument numbers them, 0..63 for
`blk_buf` and 64 + i for `pad_buf[i]`. -/
opaque Config.hiddenByte : Nat → Nat → Byte

/-- The hidden round counter between commands and after reset (U6). -/
opaque Config.hiddenRound : Nat → Fin 80

/-- The hidden multiplexer setting between commands and after reset (U6), as a choice of one of its three values. -/
opaque Config.hiddenMux : Nat → Fin 3

end Sys2Proof
end

