-- ==== Sys2Proof/Syntax.lean ====
section
/-! DEFINITION. The three commands of SHA1CORE-CMD version 1 (00_scope.md R1, 30_encoding.md R72), one constructor per
row of spec/opcode_table.json, and the recorded fault codes (60_exceptions.md R201), which the decoder answers with. -/

namespace Sys2Proof

/-- A command. DIN and LEN are not fields of the command word; they are sampled beside it (20_memory.md R58). -/
inductive Instr where
  /-- `INIT` (43_commands.md R161). -/
  | init
  /-- `BLOCK` (43_commands.md R162). -/
  | block
  /-- `FINAL(L)` (43_commands.md R163), with the tail length L = CMD[13:8] as a number (30_encoding.md R75). -/
  | final (l : Nat)
  deriving DecidableEq, Repr

/-- The fault codes 0..5 of 60_exceptions.md R201. The values 6..15 never occur (D36, U14), so they are not
representable. -/
inductive ErrCode where
  /-- 0 NONE: no fault since the last reset or `INIT`. -/
  | none
  /-- 1 ILLEGAL_OP: `CMD[3:0]` is no assigned opcode. -/
  | illegalOp
  /-- 2 RESERVED_BITS: a reserved bit is 1 under an assigned opcode. -/
  | reservedBits
  /-- 3 SEQUENCE: `BLOCK` or `FINAL` outside ABSORB. -/
  | sequence
  /-- 4 LEN_RANGE: the message would be longer than MAX_MSG_BYTES. -/
  | lenRange
  /-- 5 LEN_MISMATCH: `FINAL` whose M is not byte_count + L. -/
  | lenMismatch
  deriving DecidableEq, Repr

end Sys2Proof
end

