-- ==== Sys2Proof/WellFormed.lean ====
section
/-! DEFINITION. Which terms of `Instr` a command word can encode: the tail length of `FINAL` is 0..63 (30_encoding.md
R75; "tail length > 63 passed to Padding" cannot be expressed, 60_exceptions.md R207). -/

namespace Sys2Proof

/-- The check on a command as syntax. -/
def Instr.wellFormed : Instr → Bool
  | .init => true
  | .block => true
  | .final l => decide (l ≤ 63)

end Sys2Proof
end

