-- ==== Sys2Proof/Decode.lean ====
section
/-! DEFINITION. The command decoder (30_encoding.md R70 to R75, R78), total on every 32-bit word and rejecting by fault
code, and the encoder (R72). -/

namespace Sys2Proof

/-- Field `op`, CMD[3:0] (30_encoding.md R70). -/
def opField (w : Word32) : BitVec 4 := w.extractLsb' 0 4

/-- Field `rsv0`, CMD[7:4] (30_encoding.md R70). -/
def rsv0Field (w : Word32) : BitVec 4 := w.extractLsb' 4 4

/-- Field `tl`, CMD[13:8] (30_encoding.md R70, R75). -/
def tlField (w : Word32) : BitVec 6 := w.extractLsb' 8 6

/-- Field `rsv1`, CMD[31:14] (30_encoding.md R70). -/
def rsv1Field (w : Word32) : BitVec 18 := w.extractLsb' 14 18

/-- CMD[31:4], the bits that must be zero for `INIT` and `BLOCK` (30_encoding.md R72, R74). -/
def aboveOp (w : Word32) : BitVec 28 := w.extractLsb' 4 28

/-- `decode` of 30_encoding.md R73. ILLEGAL_OP takes precedence over RESERVED_BITS. -/
def decode (w : Word32) : Except ErrCode Instr :=
  if opField w = 1 then
    if aboveOp w ≠ 0 then .error .reservedBits else .ok .init
  else if opField w = 2 then
    if aboveOp w ≠ 0 then .error .reservedBits else .ok .block
  else if opField w = 3 then
    if rsv1Field w ≠ 0 ∨ rsv0Field w ≠ 0 then .error .reservedBits else .ok (.final (tlField w).toNat)
  else .error .illegalOp

/-- The command word of a well-formed command (30_encoding.md R72, 43_commands.md R161 to R163:
`cmd_word = 0x00000003 | (L << 8)`). -/
def encode : Instr → Word32
  | .init => 0x00000001#32
  | .block => 0x00000002#32
  | .final l => 0x00000003#32 ||| (BitVec.ofNat 32 l <<< 8)

/-- The `match` column of 30_encoding.md R72 for a command's row. -/
def Instr.rowMatch : Instr → Word32
  | .init => 0x00000001#32
  | .block => 0x00000002#32
  | .final _ => 0x00000003#32

/-- The `mask` column of 30_encoding.md R72 for a command's row. -/
def Instr.rowMask : Instr → Word32
  | .init => 0xFFFFFFFF#32
  | .block => 0xFFFFFFFF#32
  | .final _ => 0xFFFFC0FF#32

/-- What the decoder reads from a table row's word of `nbits` bits, the bits above them zero. Every command is exactly
one 32-bit word on a port (30_encoding.md R71), so there is no byte order to lay out and a longer word is none
(log entry 9). -/
def decodeTableWord (nbits w : Nat) : Option Instr :=
  if nbits ≤ 32 then
    match decode (BitVec.ofNat 32 (w % 2 ^ nbits)) with
    | .ok i => some i
    | .error _ => none
  else none

end Sys2Proof
end

