-- ==== Sys2Proof/Machine/Registers.lean ====
section
/-! DEFINITION. The registers of one SHA1CORE instance, grouped as 10_state.md groups them: the architectural registers
(section 3), the hidden ones (section 4), one accepted command, and the input wires of one clock edge. -/

namespace Sys2Proof.Machine

/-- `phase`, 10_state.md R24. -/
inductive Phase where
  | idle | absorb | done | fault
  deriving DecidableEq, Repr

/-- `mux_sel`, 10_state.md R36: the source of the block COMPRESS reads. -/
inductive MuxSel where
  | din | pad0 | pad1
  deriving DecidableEq, Repr

/-- The accumulator file H[0..4], 10_state.md R22. -/
structure Acc where
  h0 : Word32
  h1 : Word32
  h2 : Word32
  h3 : Word32
  h4 : Word32
  deriving DecidableEq, Repr

/-- The working variables a..e, 10_state.md R33. -/
structure Work where
  a : Word32
  b : Word32
  c : Word32
  d : Word32
  e : Word32
  deriving DecidableEq, Repr

/-- The architectural registers of 10_state.md R22 to R27. (`busy`, R28, is a field of `State`.) -/
structure Arch where
  h         : Acc
  phase     : Phase
  byteCount : Word64
  errCode   : ErrCode
  npad      : BitVec 2
  deriving DecidableEq, Repr

/-- The hidden state of 10_state.md R33 to R37. No output reads it. -/
structure Hidden where
  t      : Fin 80
  muxSel : MuxSel
  work   : Work
  w      : Vector Word32 80
  blkBuf : Block
  padBuf : Vector Byte 128
  deriving DecidableEq, Repr

/-- A command as sampled at its acceptance: `CMD`, `DIN` and `LEN` of 20_memory.md R58. -/
structure Command where
  cmdWord : Word32
  din     : BitVec 512
  len     : Word64
  deriving DecidableEq, Repr

/-- What the host drives at one rising edge of `clk`: the input ports of 10_state.md R21. -/
structure Wires where
  rst      : Bool
  cmdValid : Bool
  cmdWord  : Word32
  din      : BitVec 512
  lenIn    : Word64
  deriving DecidableEq, Repr

/-- The wires of a host that presents nothing. `cmd_valid = 0`, so the operand ports are not sampled (20_memory.md R58). -/
def Wires.idle : Wires := ⟨false, false, 0, 0, 0⟩

/-- The command the wires carry, as an accepting edge samples it (20_memory.md R58). -/
def Wires.command (w : Wires) : Command := ⟨w.cmdWord, w.din, w.lenIn⟩

/-- The host presenting a command (20_memory.md R65, "issue a command"). -/
def Command.present (c : Command) : Wires := ⟨false, true, c.cmdWord, c.din, c.len⟩

/-- The initial value IV of the accumulators, 10_state.md R23. -/
def Acc.iv : Acc := ⟨0x67452301#32, 0xEFCDAB89#32, 0x98BADCFE#32, 0x10325476#32, 0xC3D2E1F0#32⟩

/-- The architectural reset values of 10_state.md R38. -/
def Arch.afterReset : Arch := ⟨Acc.iv, .idle, 0, .none, 0⟩

/-- The hidden state of `State.reset`. The spec calls it unspecified (10_state.md R38). DESIGN CHOICE (log entry 5): all
zero, and `mux_sel` at DIN. -/
def Hidden.zero : Hidden :=
  ⟨0, .din, ⟨0, 0, 0, 0, 0⟩, Vector.replicate 80 0, Vector.replicate 64 0, Vector.replicate 128 0⟩

/-- The hidden state between commands and after a reset edge: any value at all (10_state.md R33 to R38, U6), read from
the free values at index `n` (log entry 4). -/
@[irreducible] def Hidden.unspecified (n : Nat) : Hidden where
  work :=
    ⟨Config.hiddenWord n 0, Config.hiddenWord n 1, Config.hiddenWord n 2, Config.hiddenWord n 3, Config.hiddenWord n 4⟩
  w := Vector.ofFn fun i => Config.hiddenWord n (5 + i.val)
  blkBuf := Vector.ofFn fun i => Config.hiddenByte n i.val
  padBuf := Vector.ofFn fun i => Config.hiddenByte n (64 + i.val)
  muxSel := if Config.hiddenMux n = 0 then .din else if Config.hiddenMux n = 1 then .pad0 else .pad1
  t := Config.hiddenRound n

/-! ## Register writes -/

/-- `H <- v`. -/
def Arch.setH (v : Acc) (a : Arch) : Arch := { a with h := v }

/-- `blk_buf <- v`. -/
def Hidden.setBlkBuf (v : Block) (h : Hidden) : Hidden := { h with blkBuf := v }

/-- `pad_buf <- v`. -/
def Hidden.setPadBuf (v : Vector Byte 128) (h : Hidden) : Hidden := { h with padBuf := v }

/-- `mux_sel <- v`. -/
def Hidden.setMuxSel (v : MuxSel) (h : Hidden) : Hidden := { h with muxSel := v }

/-- What one compression leaves in the schedule, the working variables and the round counter. -/
def Hidden.setCompression (w : Vector Word32 80) (v : Work) (t : Fin 80) (h : Hidden) : Hidden :=
  { h with w := w, work := v, t := t }

end Sys2Proof.Machine
end

