-- ==== Sys2Proof/Machine/State.lean ====
section
/-! DEFINITION. The state of one SHA1CORE instance (10_state.md), the reasons a model function can stop, and the state
right after reset. -/

namespace Sys2Proof.Machine

/-- One instance between two rising edges of `clk`. -/
structure State where
  /-- H, phase, byte_count, err_code, npad (10_state.md R22 to R27). -/
  arch      : Arch
  /-- a..e, W, blk_buf, pad_buf, mux_sel, t (10_state.md R33 to R37). -/
  hidden    : Hidden
  /-- `busy`, 10_state.md R28. -/
  busy      : Bool
  /-- While busy, the edges left until the command completes (70_reset_and_hazards.md R236). -/
  remaining : Nat
  /-- CMD, DIN and LEN of the last accepted command (20_memory.md R58). -/
  command   : Command
  /-- The host's wires at the coming edges, the next one first; after the last the host is idle (log entry 1). -/
  inputs    : List Wires
  /-- The model's own field: the index of the next free value (log entry 3). -/
  freeIndex : Nat
  /-- The open latencies of 00_scope.md R4 (log entry 7). No step changes them. -/
  params    : Params
  deriving DecidableEq, Repr

/-- Reasons the machine stops with a fault: NONE. Each of SHA1CORE's five faults (60_exceptions.md R201) is a recorded
event after which the block goes on in phase FAULT, so the model takes it as a next state (`State.raiseFault`, R203).
Nobody raises a member of this type; it has no member (log entry 11). -/
inductive Fault where
  deriving DecidableEq, Repr

/-- Reasons a model function refuses. No step reaches any of them. -/
inductive Refusal where
  /-- An instruction with no meaning yet; raised by an arm of `exec` only. Safe. No arm raises it. -/
  | notModelled (mnemonic : String)
  /-- ROTL32 with an amount outside 1..31 (40_rotate.md R102, U1); raised by `rotl32`, the general rotation, which no
  command uses (R101). Safe: the spec says to refuse. -/
  | rotateAmount (n : Nat)
  /-- PAD with |T| ≠ L, L > 63 or M > MAX_MSG_BYTES (41_padding.md R110, U2); raised by `pad`. A decoded FINAL never
  reaches it (R75, 60_exceptions.md R202). Safe: the spec says to refuse. -/
  | padOperands (l m : Nat)
  deriving DecidableEq, Repr

/-- The outcome of a step or of a meaning. -/
abbrev Result := Host.Outcome State Fault Refusal

/-- The state of 10_state.md R38 with given latencies. The hidden state and the sampled command, which R38 leaves
unspecified or does not name, are zero (DESIGN CHOICE, log entries 5 and 6). -/
def State.resetWith (p : Params) : State where
  arch := Arch.afterReset
  hidden := Hidden.zero
  busy := false
  remaining := 0
  command := ⟨0, 0, 0⟩
  inputs := []
  freeIndex := 0
  params := p

/-- The machine right after reset (10_state.md R38), with the smallest latencies R4 allows (DESIGN CHOICE, log
entry 7) and an idle host (log entry 1). -/
def State.reset : State := State.resetWith Params.smallest

end Sys2Proof.Machine
end

