-- ==== Sys2Proof/Machine/Operands.lean ====
section
/-! DEFINITION. Operand assembly: the lanes of `din` (20_memory.md R52), the block buffer, the tail and the total length
(30_encoding.md R75 to R77). -/

namespace Sys2Proof.Machine

/-- Byte k of a 512-bit data port, `din[511-8k : 504-8k]` (20_memory.md R52). -/
def laneByte (din : BitVec 512) (k : Nat) : Byte := din.extractLsb' (504 - 8 * k) 8

/-- The 64 bytes of `din` in message order (20_memory.md R52). -/
@[irreducible] def laneBlock (din : BitVec 512) : Block := Vector.ofFn fun k => laneByte din k.val

/-- The `din` value that carries given bytes, byte 0 on din[511:504], zeros after the last (30_encoding.md R79). -/
def packLanes (bytes : List Byte) : BitVec 512 :=
  BitVec.ofNat 512 ((List.range 64).foldl (fun n k => n * 256 + (bytes.getD k 0).toNat) 0)

/-- Write the hidden registers. -/
def State.setHidden (h : Hidden) (s : State) : State := { s with hidden := h }

/-- Write the architectural registers. -/
def State.setArch (a : Arch) (s : State) : State := { s with arch := a }

/-- The first step of EXECUTE: `blk_buf[k] <- DIN[511-8k : 504-8k]` for k = 0..63 (43_commands.md R160). -/
def State.loadBlkBuf (s : State) : State :=
  s.setHidden (s.hidden.setBlkBuf (laneBlock s.command.din))

/-- The tail `T = blk_buf[0..L)` of FINAL (30_encoding.md R77). -/
def tail (l : Nat) (blk : Block) : List Byte := blk.toList.take l

/-- The total length `M = LEN` of FINAL, an unsigned byte count (30_encoding.md R76). -/
def State.totalLength (s : State) : Nat := s.command.len.toNat

end Sys2Proof.Machine
end

