-- ==== Sys2Proof/Machine/Flags.lean ====
section
/-! DEFINITION. The output ports (10_state.md R29 to R32) and the flags in them. The only flags are `busy` and
`digest_valid`; no arithmetic result sets a flag (R41). -/

namespace Sys2Proof.Machine

/-- The value of the `phase` register, 10_state.md R24. -/
def Phase.code : Phase → BitVec 2
  | .idle => 0
  | .absorb => 1
  | .done => 2
  | .fault => 3

/-- The value of the `err_code` register, 60_exceptions.md R201. -/
def errCodeBits : ErrCode → BitVec 4
  | .none => 0
  | .illegalOp => 1
  | .reservedBits => 2
  | .sequence => 3
  | .lenRange => 4
  | .lenMismatch => 5

/-- `{H[0], H[1], H[2], H[3], H[4]}`, 10_state.md R29. -/
def Acc.bits (h : Acc) : BitVec 160 := h.h0 ++ h.h1 ++ h.h2 ++ h.h3 ++ h.h4

/-- `digest_valid = (phase = DONE) and (busy = 0)`, 10_state.md R30. -/
def State.digestValid (s : State) : Bool := decide (s.arch.phase = .done) && !s.busy

/-- A status word from its fields, 10_state.md R30: [31:10] zero, [9:8] npad, [7:4] err_code, [3] digest_valid, [2] busy,
[1:0] phase. -/
def statusWord (npad : BitVec 2) (err : BitVec 4) (valid busy : Bool) (phase : BitVec 2) : Word32 :=
  (0 : BitVec 22) ++ npad ++ err ++ BitVec.ofBool valid ++ BitVec.ofBool busy ++ phase

/-- The `status` port, 10_state.md R30. While busy, phase, err_code and npad are free values (U4). -/
def State.statusPort (s : State) : Word32 :=
  if s.busy then
    statusWord (Config.busyNpad s.freeIndex) (Config.busyErrCode s.freeIndex) s.digestValid true
      (Config.busyPhase s.freeIndex)
  else
    statusWord s.arch.npad (errCodeBits s.arch.errCode) s.digestValid false s.arch.phase.code

/-- The `digest` port, 10_state.md R29. While busy, a free value (U3). -/
def State.digestPort (s : State) : BitVec 160 :=
  if s.busy then Config.busyDigest s.freeIndex else s.arch.h.bits

/-- The `count` port, 10_state.md R31. While busy, a free value (U3). -/
def State.countPort (s : State) : Word64 :=
  if s.busy then Config.busyCount s.freeIndex else s.arch.byteCount

/-- The wires of the coming edge: what the host drives now (log entry 1). -/
def State.wires (s : State) : Wires := s.inputs.headD Wires.idle

/-- The `cmd_ready` port, `(rst = 0) and (busy = 0)`, 10_state.md R32. -/
def State.cmdReady (s : State) : Bool := !s.wires.rst && !s.busy

/-- Byte 4i + j of the digest as a byte string, `H[i][31-8j : 24-8j]` (20_memory.md R55). -/
def Acc.digestBytes (h : Acc) : List Byte :=
  [h.h0, h.h1, h.h2, h.h3, h.h4].flatMap fun w => (List.range 4).map fun j => w.extractLsb' (24 - 8 * j) 8

end Sys2Proof.Machine
end

