-- ==== Sys2Proof/Machine/Ops.lean ====
section
/-! DEFINITION. The named operations over the registers: fault entry and the one way out of it (60_exceptions.md R203,
R205), and what a clock edge does around a command (20_memory.md R58, 70_reset_and_hazards.md R230, R236). -/

namespace Sys2Proof.Machine

/-- `raise Fault(code)`, 60_exceptions.md R203, on the architectural registers. -/
def Arch.raiseFault (code : ErrCode) (a : Arch) : Arch :=
  { a with errCode := if a.phase = .fault then a.errCode else code, phase := .fault }

/-- `raise Fault(code)`, 60_exceptions.md R203: taking a fault. -/
def State.raiseFault (code : ErrCode) (s : State) : State :=
  { s with arch := s.arch.raiseFault code }

/-- The registers after `INIT` (43_commands.md R161), whatever they were before: the start of a digest, and the only way
out of FAULT by a command (60_exceptions.md R205). -/
def Arch.started : Arch := ⟨Acc.iv, .absorb, 0, .none, 0⟩

/-- Start a new digest (43_commands.md R161). -/
def State.startDigest (s : State) : State := { s with arch := Arch.started }

/-- Run a command's effect if its CHECK answered 0, else take its fault (43_commands.md R160). -/
def guarded (code : ErrCode) (s : State) (effect : Result) : Result :=
  if code = .none then effect else .next (s.raiseFault code)

/-! ## Around a command: one clock edge -/

/-- Every edge uses up the host's wires for it, and moves on to fresh free values (log entries 1 and 3). -/
def State.advance (s : State) : State :=
  { s with inputs := s.inputs.tail, freeIndex := s.freeIndex + 1 }

/-- A reset edge: every piece of state takes its value of 10_state.md R38 (70_reset_and_hazards.md R230, R231). The
hidden state is unspecified there. The host's wires, the latencies and the free index are no state of the block. -/
def State.resetEdge (s : State) : State :=
  { State.resetWith s.params with
    hidden := Hidden.unspecified s.freeIndex, inputs := s.inputs, freeIndex := s.freeIndex }

/-- An accepting edge samples the command, sets `busy` and starts the countdown of `lat` edges (20_memory.md R58,
70_reset_and_hazards.md R236). -/
def State.accept (c : Command) (lat : Nat) (s : State) : State :=
  { s with command := c, busy := true, remaining := lat }

/-- An edge inside a command's interval (70_reset_and_hazards.md R236). -/
def State.countDown (s : State) : State := { s with remaining := s.remaining - 1 }

/-- The completing edge clears `busy` (70_reset_and_hazards.md R236); between commands the hidden state is unspecified
(10_state.md R33 to R37, U6). -/
def State.retire (s : State) : State :=
  { s with busy := false, remaining := 0, hidden := Hidden.unspecified s.freeIndex }

/-- Apply `retire` to the outcome of a command. -/
def retireResult : Result → Result
  | .next s => .next s.retire
  | .fault f => .fault f
  | .refused r => .refused r

end Sys2Proof.Machine
end

