-- ==== Sys2Proof/Machine/Check.lean ====
section
/-! DEFINITION. CHECK (60_exceptions.md R202) and the latency of a command (70_reset_and_hazards.md R236), which depends
on it. -/

namespace Sys2Proof.Machine

/-- `CHECK(r, LEN)` of 60_exceptions.md R202; `.none` is its 0. The comparisons are on unbounded numbers. -/
def check (r : Except ErrCode Instr) (len : Word64) (a : Arch) : ErrCode :=
  match r with
  | .error c => c
  | .ok .init => .none
  | .ok .block =>
    if a.phase ≠ .absorb then .sequence
    else if a.byteCount.toNat + 64 > maxMsgBytes then .lenRange
    else .none
  | .ok (.final l) =>
    if a.phase ≠ .absorb then .sequence
    else if len.toNat > maxMsgBytes then .lenRange
    else if len.toNat ≠ a.byteCount.toNat + l then .lenMismatch
    else .none

/-- The LAT of 70_reset_and_hazards.md R236 for a sampled command: LAT_ERR if it faults, else its own; FINAL has
N = 64 exactly when L < 56 (41_padding.md R111). -/
def latency (c : Command) (a : Arch) (p : Params) : Nat :=
  if check (decode c.cmdWord) c.len a ≠ .none then p.latErr
  else
    match decode c.cmdWord with
    | .error _ => p.latErr
    | .ok .init => p.latInit
    | .ok .block => p.latBlock
    | .ok (.final l) => if l < 56 then p.latFinal1 else p.latFinal2

end Sys2Proof.Machine
end

