-- ==== Sys2Proof/Machine/Rotate.lean ====
section
/-! DEFINITION. The 32-bit rotate-left primitive (40_rotate.md). -/

namespace Sys2Proof.Machine

/-- The formula of 40_rotate.md R100, `(x << n) | (x >> (32 - n))`. It stands for ROTL32 only when 1 ≤ n ≤ 31; every use
below keeps to that. -/
def rotateFormula (x : Word32) (n : Nat) : Word32 := (x <<< n) ||| (x >>> (32 - n))

/-- ROTL32 with a general amount (40_rotate.md R100). It refuses an amount outside 1..31 and gives it no value (R102). -/
def rotl32 (x : Word32) (n : Nat) : Except Refusal Word32 :=
  if 1 ≤ n ∧ n ≤ 31 then .ok (rotateFormula x n) else .error (.rotateAmount n)

/-- The wired amounts of 40_rotate.md R101, ROTATE_AMOUNTS of 00_scope.md R3. -/
inductive RotAmount where
  | one | five | thirty
  deriving DecidableEq, Repr

/-- A wired amount as a number. -/
def rotAmountNat : RotAmount → Nat
  | .one => 1
  | .five => 5
  | .thirty => 30

/-- ROTL32 as the datapath applies it: at a wired amount (40_rotate.md R101). -/
def rotl (x : Word32) (r : RotAmount) : Word32 := rotateFormula x (rotAmountNat r)

end Sys2Proof.Machine
end

