-- ==== Sys2Proof/Machine/Compress.lean ====
section
/-! DEFINITION. The block compressor COMPRESS (42_compressor.md): message schedule, 80 rounds, accumulate; the streaming
multiplexer that selects its block (10_state.md R36, 43_commands.md R164); and the 16-word form of the schedule (R139). -/

namespace Sys2Proof.Machine

/-! ## Message schedule -/

/-- Bytes packed big-endian, four per word (20_memory.md R53). -/
def packWords : List Byte → List Word32
  | b0 :: b1 :: b2 :: b3 :: bs => bigEndian b0 b1 b2 b3 :: packWords bs
  | _ => []

theorem packWords_length (n : Nat) (bs : List Byte) (h : bs.length = 4 * n) : (packWords bs).length = n := by
  induction n generalizing bs with
  | zero => match bs, h with | [], _ => rfl
  | succ n ih =>
    match bs, h with
    | b0 :: b1 :: b2 :: b3 :: bs, h => simp only [packWords, List.length_cons, ih bs (by simp at h; omega)]

/-- Schedule words 0..15: the block's bytes packed big-endian, four per word (42_compressor.md R131, 20_memory.md R53). -/
def packedWords (b : Block) : List Word32 := packWords b.toList

theorem packedWords_length (b : Block) : (packedWords b).length = 16 := packWords_length 16 _ (by simp)

/-- The XOR and rotation of 42_compressor.md R132 on the words W[i-3], W[i-8], W[i-14] and W[i-16]. -/
def expandWord (w3 w8 w14 w16 : Word32) : Word32 := rotl (w3 ^^^ w8 ^^^ w14 ^^^ w16) .one

/-- The word that follows W[0..i), for i = `ws.length` ≥ 16 (42_compressor.md R132). -/
def nextWord (ws : List Word32) : Word32 :=
  expandWord (ws.getD (ws.length - 3) 0) (ws.getD (ws.length - 8) 0) (ws.getD (ws.length - 14) 0)
    (ws.getD (ws.length - 16) 0)

/-- `n` more schedule words, in increasing order of i (42_compressor.md R132). -/
@[irreducible] def expand : Nat → List Word32 → List Word32
  | 0, ws => ws
  | n + 1, ws => expand n (ws ++ [nextWord ws])

theorem expand_length (n : Nat) (ws : List Word32) : (expand n ws).length = ws.length + n := by
  induction n generalizing ws with
  | zero => simp [expand]
  | succ n ih => simp [expand, ih]; omega

/-- The schedule W[0..79] of a block (42_compressor.md R131, R132). -/
def schedule (b : Block) : Vector Word32 80 :=
  ⟨(expand 64 (packedWords b)).toArray, by simp [expand_length, packedWords_length]⟩

/-! ## Rounds -/

/-- The mixing function f of round group g = 0, 1, 2, 3 (42_compressor.md R134). -/
def mix (g : Nat) (b c d : Word32) : Word32 :=
  match g with
  | 0 => (b &&& c) ^^^ (~~~b &&& d)
  | 1 => b ^^^ c ^^^ d
  | 2 => (b &&& c) ^^^ (b &&& d) ^^^ (c &&& d)
  | _ => b ^^^ c ^^^ d

/-- The constant K of round group g = 0, 1, 2, 3 (42_compressor.md R134). -/
def roundConst (g : Nat) : Word32 :=
  match g with
  | 0 => 0x5A827999#32
  | 1 => 0x6ED9EBA1#32
  | 2 => 0x8F1BBCDC#32
  | _ => 0xCA62C1D6#32

/-- `ROUNDFN(t, b, c, d)`: f and K of round t, whose group is t / 20 (42_compressor.md R134). -/
def roundFn (t : Nat) (b c d : Word32) : Word32 × Word32 := (mix (t / 20) b c d, roundConst (t / 20))

/-- Round t with schedule word w: all five working variables at once from their values before the round
(42_compressor.md R135). -/
def round (t : Nat) (w : Word32) (v : Work) : Work :=
  let (f, k) := roundFn t v.b v.c v.d
  ⟨rotl v.a .five + f + v.e + k + w, v.a, rotl v.b .thirty, v.c, v.d⟩

/-- Rounds t, t + 1, … on the given schedule words, in order (42_compressor.md R136). -/
def rounds : (t : Nat) → List Word32 → Work → Work
  | _, [], v => v
  | t, w :: ws, v => rounds (t + 1) ws (round t w v)

/-- The working variables before round 0 (42_compressor.md R133). -/
def Acc.toWork (h : Acc) : Work := ⟨h.h0, h.h1, h.h2, h.h3, h.h4⟩

/-- The working variables after the first n rounds on a block. -/
def workAfter (h : Acc) (b : Block) (n : Nat) : Work := rounds 0 ((schedule b).toList.take n) h.toWork

/-- Each working variable added into its accumulator mod 2^32 (42_compressor.md R137). -/
def Acc.accumulate (h : Acc) (v : Work) : Acc := ⟨h.h0 + v.a, h.h1 + v.b, h.h2 + v.c, h.h3 + v.d, h.h4 + v.e⟩

/-- `COMPRESS(H, B)` of 42_compressor.md R130: a pure function (R138). -/
def compress (h : Acc) (b : Block) : Acc := h.accumulate (workAfter h b 80)

/-! ## The streaming multiplexer -/

/-- `mux_sel <- m` (43_commands.md R162, R163). -/
def State.select (m : MuxSel) (s : State) : State := s.setHidden (s.hidden.setMuxSel m)

/-- `pad_buf[64 k .. 64 k + 64)`, padding block k = 0 or 1 (10_state.md R35). -/
@[irreducible] def padBlock (p : Vector Byte 128) (k : Fin 2) : Block :=
  Vector.ofFn fun i => p[64 * k.val + i.val]'(by omega)

/-- The block the multiplexer selects (10_state.md R36). -/
def Hidden.selected (h : Hidden) : Block :=
  match h.muxSel with
  | .din => h.blkBuf
  | .pad0 => padBlock h.padBuf 0
  | .pad1 => padBlock h.padBuf 1

/-- Run COMPRESS on the selected block (42_compressor.md R130): it writes H, and in the hidden state the schedule, the
working variables and the round counter, which ends at 79 (10_state.md R33, R34, R37). -/
def State.compressSelected (s : State) : State :=
  (s.setArch (s.arch.setH (compress s.arch.h s.hidden.selected))).setHidden
    (s.hidden.setCompression (schedule s.hidden.selected) (workAfter s.arch.h s.hidden.selected 80) 79)

/-! ## The schedule in a 16-word window (42_compressor.md R139) -/

/-- Round t with a window that holds W[0..15] while t < 16 and W[t-16 .. t-1] from then on: W[t] is computed just before
the round. -/
def windowRound (t : Nat) (s : List Word32 × Work) : List Word32 × Work :=
  if t < 16 then (s.1, round t (s.1.getD t 0) s.2)
  else
    let w := expandWord (s.1.getD 13 0) (s.1.getD 8 0) (s.1.getD 2 0) (s.1.getD 0 0)
    (s.1.tail ++ [w], round t w s.2)

/-- COMPRESS with the schedule kept in a 16-word window (42_compressor.md R139, 10_state.md R34). -/
def compressWindow (h : Acc) (b : Block) : Acc :=
  h.accumulate ((List.range 80).foldl (fun s t => windowRound t s) (packedWords b, h.toWork)).2

end Sys2Proof.Machine
end

