-- ==== Sys2Proof/Machine/Padding.lean ====
section
/-! DEFINITION. The padding generator PAD (41_padding.md), as rules R110 to R115 state it and as R116 transcribes the
source's byte-write loop. -/

namespace Sys2Proof.Machine

/-- N, the number of padding bytes (41_padding.md R111). -/
def padLength (l : Nat) : Nat := if l < 56 then 64 else 128

/-- Byte k of the length field: `(M * 8)[63-8k : 56-8k]` (41_padding.md R115). -/
def lengthByte (m k : Nat) : Byte := (BitVec.ofNat 64 (m * 8)).extractLsb' (56 - 8 * k) 8

/-- Byte P[i] of the padding: tail, marker, zeros, length field (41_padding.md R112 to R115). -/
def padByte (t : List Byte) (l m i : Nat) : Byte :=
  if i < l then t.getD i 0
  else if i = l then 0x80
  else if i < padLength l - 8 then 0
  else lengthByte m (i - (padLength l - 8))

/-- PAD's domain (41_padding.md R110). -/
abbrev PadDomain (t : List Byte) (l m : Nat) : Prop := t.length = l ∧ l ≤ 63 ∧ m ≤ maxMsgBytes

/-- `PAD(T, L, M)` of 41_padding.md R110: the count N and the bytes P[0..N). It refuses operands outside its domain
(U2). -/
def pad (t : List Byte) (l m : Nat) : Except Refusal (Nat × List Byte) :=
  if PadDomain t l m then .ok (padLength l, (List.range (padLength l)).map (padByte t l m))
  else .error (.padOperands l m)

/-- A padding buffer with its first bytes replaced by P; the bytes past P keep what they held (41_padding.md R118). -/
@[irreducible] def overwritePad (p : List Byte) (buf : Vector Byte 128) : Vector Byte 128 :=
  Vector.ofFn fun i => p.getD i.val buf[i.val]

/-- `pad_buf[0..N) <- P` (43_commands.md R163). -/
def State.writePad (p : List Byte) (s : State) : State :=
  s.setHidden (s.hidden.setPadBuf (overwritePad p s.hidden.padBuf))

/-! ## The source's loop (41_padding.md R116) -/

/-- The loop of 41_padding.md R116 for at most `k` bytes: write the low byte of v at i, then go on with v / 256 at i - 1,
until v is zero. -/
def lengthLoop : (k v i : Nat) → List Byte → List Byte
  | 0, _, _, p => p
  | k + 1, v, i, p => if v = 0 then p else lengthLoop k (v / 256) (i - 1) (p.set i (BitVec.ofNat 8 v))

/-- The padding bytes as the source writes them: tail, marker and zeros up to N, and then the loop from N - 1 down. It
"writes at most 8 bytes" (41_padding.md R116); the positions it skips keep 0x00 (90_conflicts.md C4). -/
def padByLoop (t : List Byte) (l m : Nat) : List Byte :=
  lengthLoop 8 (m * 8) (padLength l - 1) (t ++ 0x80 :: List.replicate (padLength l - l - 1) 0)

end Sys2Proof.Machine
end

