-- ==== Sys2Proof/Machine/Commands.lean ====
section
/-! DEFINITION. The meanings of the three commands (43_commands.md R161 to R163). Each runs on the sampled command in
`State.command` with `blk_buf` already loaded (R160), checks itself (60_exceptions.md R202), and either has its effect or
takes its fault (R203). Both are next states. -/

namespace Sys2Proof.Machine

/-- `INIT`, 43_commands.md R161. -/
def execInit (s : State) : Result :=
  guarded (check (.ok .init) s.command.len s.arch) s (.next s.startDigest)

/-- The last assignments of BLOCK: `byte_count <- byte_count + 64` (43_commands.md R162). -/
def State.countBlock (s : State) : State :=
  { s with arch := { s.arch with byteCount := s.arch.byteCount + 64 } }

/-- `BLOCK`, 43_commands.md R162. -/
def execBlock (s : State) : Result :=
  guarded (check (.ok .block) s.command.len s.arch) s (.next (s.select .din).compressSelected.countBlock)

/-- The last assignments of FINAL: `npad <- N / 64`, `byte_count <- M`, `phase <- DONE` (43_commands.md R163). -/
def State.finishDigest (n : Nat) (s : State) : State :=
  { s with
    arch := { s.arch with npad := BitVec.ofNat 2 (n / 64), byteCount := s.command.len, phase := .done } }

/-- The compressions of FINAL: PAD0, then PAD1 if N = 128 (43_commands.md R163, R164). -/
def State.compressPadding (n : Nat) (s : State) : State :=
  let s0 := (s.select .pad0).compressSelected
  if n = 128 then (s0.select .pad1).compressSelected else s0

/-- The effect of FINAL once its checks pass (43_commands.md R163). PAD refuses operands outside its domain
(41_padding.md R110); after the checks those of a decoded FINAL are inside. -/
def finalEffect (l : Nat) (s : State) : Result :=
  match pad (tail l s.hidden.blkBuf) l s.totalLength with
  | .error r => .refused r
  | .ok (n, p) => .next (((s.writePad p).compressPadding n).finishDigest n)

/-- `FINAL(L)`, 43_commands.md R163. -/
def execFinal (l : Nat) (s : State) : Result :=
  guarded (check (.ok (.final l)) s.command.len s.arch) s (finalEffect l s)

end Sys2Proof.Machine
end

