-- ==== Sys2Proof/Machine/Execute.lean ====
section
/-! DEFINITION. EXECUTE (43_commands.md R160), the transaction-level step of decision D1, and the clock edge around it
(20_memory.md R58, 70_reset_and_hazards.md R230 to R236). -/

namespace Sys2Proof.Machine

/-- `EXECUTE(CMD, DIN, LEN)` of 43_commands.md R160, on the sampled command: load `blk_buf`, decode, and take the
decoder's fault or run the command. -/
def execute (s : State) : Result :=
  match decode s.command.cmdWord with
  | .error c => .next (s.loadBlkBuf.raiseFault c)
  | .ok i => exec i s.loadBlkBuf

/-- The completing edge of a command: all of its effects at once, and `busy` falls (70_reset_and_hazards.md R236). -/
def complete (s : State) : Result := retireResult (execute s)

/-- One accepted command as one atomic step, without its cycles (20_memory.md R59, decision D1). -/
def transact (c : Command) (s : State) : Result := complete { s with command := c }

/-- Commands executed one at a time, in order (20_memory.md R59). -/
def runCommands : List Command → State → Result
  | [], s => .next s
  | c :: cs, s =>
    match transact c s with
    | .next t => runCommands cs t
    | .fault f => .fault f
    | .refused r => .refused r

/-- One rising edge of `clk`. Reset wins (70_reset_and_hazards.md R230); a command in progress counts down and completes
on its last edge (R236); a command is accepted when `cmd_valid = 1` and `cmd_ready = 1` (20_memory.md R58); otherwise
nothing happens (60_exceptions.md R215). -/
def clockEdge (s : State) : Result :=
  if s.wires.rst then .next s.advance.resetEdge
  else if s.busy then
    if s.remaining ≤ 1 then complete s.advance else .next s.advance.countDown
  else if s.wires.cmdValid then
    .next (s.advance.accept s.wires.command (latency s.wires.command s.arch s.params))
  else .next s.advance

/-- A command with word `w` in progress, at its completing edge, the host idle there (log entry 9). -/
def State.withCommandWord (s : State) (w : Word32) : State :=
  { s with
    command := { s.command with cmdWord := w }, busy := true, remaining := 1, inputs := Wires.idle :: s.inputs }

end Sys2Proof.Machine
end

