-- ==== Sys2Proof/Machine/Step.lean ====
section
/-! DEFINITION. The step: one rising edge of `clk` (70_reset_and_hazards.md R230). There is no program counter and no
fetch (10_state.md R40, 20_memory.md R62): a command comes from the host, and the edge that completes it runs it. -/

namespace Sys2Proof.Machine

/-- One step of the machine. -/
def step (s : State) : Host.Outcome State Fault Refusal := clockEdge s

/-- The state whose next step runs the command of a table word, the bits above `nbits` zero (log entry 9). -/
def State.withFetchWord (s : State) (nbits w : Nat) : State :=
  s.withCommandWord (BitVec.ofNat 32 (w % 2 ^ nbits))

end Sys2Proof.Machine
end

