-- ==== Sys2Proof/Machine/Hash.lean ====
section
/-! DEFINITION. Whole messages: SHA1(m) (43_commands.md R165), the command sequence of the buffer driver (30_encoding.md
R80), and that of the file driver for a chunk size (43_commands.md R168). -/

namespace Sys2Proof.Machine

/-- Block k of a byte sequence, `m[64k .. 64k+64)` (00_scope.md R7). -/
@[irreducible] def blockAt (m : List Byte) (k : Nat) : Block := Vector.ofFn fun i => m.getD (64 * k + i.val) 0

/-- The complete blocks of a byte sequence, in order: `length >> 6` of them (43_commands.md R165). -/
def completeBlocks (m : List Byte) : List Block := (List.range (m.length >>> 6)).map (blockAt m)

/-- What is left of a byte sequence after its complete blocks: `length & 63` bytes (43_commands.md R165). -/
def tailBytes (m : List Byte) : List Byte := m.drop (64 * (m.length >>> 6))

/-- The padding blocks of a message's tail, one or two (43_commands.md R165). -/
def paddingBlocks (n : Nat) (p : List Byte) : List Block :=
  if n = 128 then [blockAt p 0, blockAt p 1] else [blockAt p 0]

/-- `SHA1(m)` of 43_commands.md R165: COMPRESS folded over the complete blocks and the padding blocks, from IV. It
refuses a message longer than MAX_MSG_BYTES, for which PAD has no value (41_padding.md R110). -/
def sha1 (m : List Byte) : Except Refusal Acc :=
  match pad (tailBytes m) (m.length &&& 63) m.length with
  | .error r => .error r
  | .ok (n, p) => .ok ((completeBlocks m ++ paddingBlocks n p).foldl compress Acc.iv)

/-- The triple of `INIT` (30_encoding.md R79). -/
def Command.init : Command := ⟨0x00000001#32, 0, 0⟩

/-- The triple of `BLOCK <bytes64>` (30_encoding.md R79). -/
def Command.block (b : List Byte) : Command := ⟨0x00000002#32, packLanes b, 0⟩

/-- The triple of `FINAL <L>, <M>, <bytesL>` (30_encoding.md R79: 0x00000003 + (L × 256)). -/
def Command.final (l m : Nat) (t : List Byte) : Command :=
  ⟨BitVec.ofNat 32 (0x00000003 + l * 256), packLanes t, BitVec.ofNat 64 m⟩

/-- The expansion of `HASH m`, the source's buffer driver (30_encoding.md R80). -/
def hashCommands (m : List Byte) : List Command :=
  Command.init :: (completeBlocks m).map (fun b => Command.block b.toList) ++
    [Command.final (m.length &&& 63) m.length (tailBytes m)]

/-- The commands of the source's file driver with chunks of `c` bytes (43_commands.md R168): the complete blocks of each
full chunk, then those of the rest and its final partial block, with the total file length. -/
def fileCommands (c : Nat) (m : List Byte) : List Command :=
  let full := m.length / c
  let rest := m.drop (c * full)
  let chunkBlocks := (List.range full).flatMap fun j => completeBlocks ((m.drop (c * j)).take c)
  Command.init :: (chunkBlocks ++ completeBlocks rest).map (fun b => Command.block b.toList) ++
    [Command.final (rest.length &&& 63) m.length (tailBytes rest)]

end Sys2Proof.Machine
end

