-- ==== Sys2Proof/Machine/Assembler.lean ====
section
/-! DEFINITION. The command assembly language (30_encoding.md R79) and its pseudo-instruction HASH (R80): lines of
characters to command triples. Text is a list of characters. What R79 leaves open about spaces, blank lines and quotes is
log entry 14. -/

namespace Sys2Proof.Machine

/-- One line of assembly, its operands read. -/
inductive AsmLine where
  | init
  | block (bytes : List Byte)
  | final (l m : Nat) (bytes : List Byte)
  | raw (w m : Nat) (bytes : Option (List Byte))
  | hash (bytes : List Byte)
  deriving DecidableEq, Repr

/-- What a line assembles to (30_encoding.md R79, R80). None is a rejected line: L > 63, a byte count that is not K,
M ≥ 2^64, w ≥ 2^32; for HASH, a message longer than MAX_MSG_BYTES. -/
def assembleLine : AsmLine → Option (List Command)
  | .init => some [Command.init]
  | .block bytes => if bytes.length = 64 then some [Command.block bytes] else none
  | .final l m bytes => if l ≤ 63 ∧ bytes.length = l ∧ m < 2 ^ 64 then some [Command.final l m bytes] else none
  | .raw w m none => if w < 2 ^ 32 ∧ m < 2 ^ 64 then some [⟨BitVec.ofNat 32 w, 0, BitVec.ofNat 64 m⟩] else none
  | .raw w m (some bytes) =>
    if w < 2 ^ 32 ∧ m < 2 ^ 64 ∧ bytes.length = 64 then
      some [⟨BitVec.ofNat 32 w, packLanes bytes, BitVec.ofNat 64 m⟩]
    else none
  | .hash bytes => if bytes.length ≤ maxMsgBytes then some (hashCommands bytes) else none

/-! ## Text -/

/-- The tokens of a line: a run of characters, a quoted string, a comma. -/
inductive Token where
  | word (cs : List Char)
  | quoted (cs : List Char)
  | comma
  deriving DecidableEq, Repr

/-- Where the lexer stands: outside quotes with the word read so far, or inside quotes. Both are kept backwards. -/
inductive LexMode where
  | plain (cur : List Char)
  | string (cur : List Char)
  deriving DecidableEq, Repr

/-- End the word read so far. -/
def endWord (cur : List Char) (ts : List Token) : List Token :=
  if cur.isEmpty then ts else .word cur.reverse :: ts

/-- Split a line into tokens. A `;` outside quotes starts a comment that runs to the end of the line (30_encoding.md R79).
None if a quote is not closed.
DESIGN CHOICE (log entry 14): a quote ends the word before it, so no blank is needed between a word and a quoted string. -/
def lex : LexMode → List Char → Option (List Token)
  | .plain cur, [] => some (endWord cur [])
  | .string _, [] => none
  | .plain cur, c :: cs =>
    if c = ';' then some (endWord cur [])
    else if c = '"' then (lex (.string []) cs).map (endWord cur)
    else if c = ',' then (lex (.plain []) cs).map fun ts => endWord cur (.comma :: ts)
    else if c = ' ' ∨ c = '\t' then (lex (.plain []) cs).map (endWord cur)
    else lex (.plain (c :: cur)) cs
  | .string cur, c :: cs =>
    if c = '"' then (lex (.plain []) cs).map fun ts => .quoted cur.reverse :: ts
    else lex (.string (c :: cur)) cs

/-- The operands of a line: single tokens separated by commas. DESIGN CHOICE (log entry 14): a comma has an operand after
it, so an empty tail is written as `""` or omitted together with its comma, and a line that ends in a comma is rejected. -/
def operandList : List Token → Option (List Token)
  | [] => some []
  | [.comma] => none
  | [t] => some [t]
  | .comma :: _ => none
  | t :: .comma :: t' :: ts => (operandList (t' :: ts)).map fun os => t :: os
  | _ => none

/-- The value of a hexadecimal digit, of either case. -/
def hexDigit (c : Char) : Option Nat :=
  if '0' ≤ c ∧ c ≤ '9' then some (c.toNat - '0'.toNat)
  else if 'a' ≤ c ∧ c ≤ 'f' then some (c.toNat - 'a'.toNat + 10)
  else if 'A' ≤ c ∧ c ≤ 'F' then some (c.toNat - 'A'.toNat + 10)
  else none

/-- Digits in a base, most significant first, after the value read so far. -/
def digits (base : Nat) : Nat → List Char → Option Nat
  | n, [] => some n
  | n, c :: cs =>
    match hexDigit c with
    | some d => if d < base then digits base (n * base + d) cs else none
    | none => none

/-- A number: decimal, or hexadecimal after 0x (30_encoding.md R79). -/
def number : Token → Option Nat
  | .word ['0', 'x'] => none
  | .word ('0' :: 'x' :: cs) => digits 16 0 cs
  | .word cs => digits 10 0 cs
  | .quoted _ => none
  | .comma => none

/-- Pairs of hex digits, byte 0 first (30_encoding.md R79). -/
def hexBytes : List Char → Option (List Byte)
  | [] => some []
  | a :: b :: cs =>
    match hexDigit a, hexDigit b, hexBytes cs with
    | some x, some y, some bs => some (BitVec.ofNat 8 (x * 16 + y) :: bs)
    | _, _, _ => none
  | [_] => none

/-- The bytes of a quoted ASCII string (30_encoding.md R79). -/
def asciiBytes : List Char → Option (List Byte)
  | [] => some []
  | c :: cs => if c.toNat < 128 then (asciiBytes cs).map fun bs => BitVec.ofNat 8 c.toNat :: bs else none

/-- A byte operand: hex digits or a quoted string (30_encoding.md R79). -/
def bytesOperand : Token → Option (List Byte)
  | .word cs => hexBytes cs
  | .quoted cs => asciiBytes cs
  | .comma => none

/-- A line from its mnemonic and operands (the syntax table of 30_encoding.md R79, and HASH of R80). An omitted byte
operand of FINAL or HASH is the empty byte sequence, which is zero hex digits long. -/
def lineOf (mnemonic : List Char) (ops : List Token) : Option AsmLine :=
  if mnemonic = ['I', 'N', 'I', 'T'] then if ops = [] then some .init else none
  else if mnemonic = ['B', 'L', 'O', 'C', 'K'] then
    match ops with
    | [b] => (bytesOperand b).map .block
    | _ => none
  else if mnemonic = ['F', 'I', 'N', 'A', 'L'] then
    match ops with
    | [l, m] => (number l).bind fun l => (number m).map fun m => .final l m []
    | [l, m, b] => (number l).bind fun l => (number m).bind fun m => (bytesOperand b).map fun b => .final l m b
    | _ => none
  else if mnemonic = ['R', 'A', 'W'] then
    match ops with
    | [w] => (number w).map fun w => .raw w 0 none
    | [w, m] => (number w).bind fun w => (number m).map fun m => .raw w m none
    | [w, m, b] => (number w).bind fun w => (number m).bind fun m => (bytesOperand b).map fun b => .raw w m (some b)
    | _ => none
  else if mnemonic = ['H', 'A', 'S', 'H'] then
    match ops with
    | [] => some (.hash [])
    | [b] => (bytesOperand b).map .hash
    | _ => none
  else none

/-- The command triples of one line of text (30_encoding.md R79); none if the assembler rejects it. A line with nothing
before its comment gives no command. -/
def assembleText (line : List Char) : Option (List Command) :=
  match lex (.plain []) line with
  | some [] => some []
  | some (.word m :: ts) => (operandList ts).bind fun ops => (lineOf m ops).bind assembleLine
  | _ => none

/-- The command triples of a program, one line of text after another; none if a line is rejected. -/
def assemble (lines : List (List Char)) : Option (List Command) := (lines.mapM assembleText).map List.flatten

end Sys2Proof.Machine
end

