-- ==== Sys2Proof/Machine/Platform.lean ====
section
/-! DEFINITION. A platform of N_INSTANCES ≥ 1 independent instances (00_scope.md R4, 60_exceptions.md R213). -/

namespace Sys2Proof.Machine

/-- The instances of a platform, each with its own ports and its own state (60_exceptions.md R213). -/
structure Platform where
  instances : List State
  deriving DecidableEq, Repr

/-- N_INSTANCES ≥ 1 (00_scope.md R4). -/
abbrev Platform.WellFormed (p : Platform) : Prop := 1 ≤ p.instances.length

/-- A rising edge at instance k: that instance takes its step, and no other is touched (20_memory.md R64). None if there
is no instance k. -/
def Platform.edge (k : Nat) (p : Platform) : Option Platform :=
  match p.instances[k]? with
  | none => none
  | some s =>
    match step s with
    | .next t => some ⟨p.instances.set k t⟩
    | .fault _ => none
    | .refused _ => none

end Sys2Proof.Machine
end

