-- ==== Sys2Proof/Safety.lean ====
section
/-! DEFINITION. What the machine keeps: the invariants the spec states of the registers (10_state.md R25 to R27, R36;
70_reset_and_hazards.md R236), and when a result is a digest. -/

namespace Sys2Proof.Machine

/-- The invariants of the architectural registers, phase by phase.
- IDLE is the reset state itself, since only reset enters it (10_state.md R24, R38).
- ABSORB: byte_count is a multiple of 64 and at most 2^61 - 64 (R25); npad is 0 after `INIT` (R27).
- DONE: byte_count is at most 2^61 - 1 (R25); npad is 1 or 2, and 2 exactly when 56 or more bytes were left after the
  last complete block (R27, 41_padding.md R117).
- FAULT: byte_count and npad keep what they were before the faulting command (R25, R27).
- err_code is 0 exactly outside FAULT (R26, 60_exceptions.md R203, R205). -/
abbrev Arch.Inv (a : Arch) : Prop :=
  (a.phase = .idle → a = Arch.afterReset) ∧
  (a.phase = .absorb → a.byteCount.toNat % 64 = 0 ∧ a.byteCount.toNat ≤ 2 ^ 61 - 64 ∧ a.npad = 0) ∧
  (a.phase = .done →
    a.byteCount.toNat ≤ maxMsgBytes ∧ a.npad = (if a.byteCount.toNat % 64 < 56 then 1 else 2)) ∧
  (a.phase = .fault → a.byteCount.toNat ≤ maxMsgBytes ∧ a.npad.toNat ≤ 2) ∧
  (a.errCode ≠ .none ↔ a.phase = .fault)

/-- The invariant of the whole state: the registers, the latencies of 00_scope.md R4, and `busy` with its countdown,
which never exceeds the latency of the command in progress (70_reset_and_hazards.md R236). -/
abbrev State.Inv (s : State) : Prop :=
  s.arch.Inv ∧ s.params.WellFormed ∧ (s.busy = true ↔ 1 ≤ s.remaining) ∧
  (s.busy = true → s.remaining ≤ latency s.command s.arch s.params)

/-- A step is safe when it answers a next state: the machine neither faults nor refuses. -/
abbrev SafeStep (s : State) : Prop := ∃ t, step s = .next t

/-- A command's effect leaves alone what belongs to the edges around it: `busy` and its countdown, the sampled command,
the host's wires, the free index and the latencies. -/
abbrev SameAround (s t : State) : Prop :=
  t.busy = s.busy ∧ t.remaining = s.remaining ∧ t.command = s.command ∧ t.inputs = s.inputs ∧
  t.freeIndex = s.freeIndex ∧ t.params = s.params

/-- The value of `a` in the recurrence of 42_compressor.md R141, five places along: entry 5 + t is a_t, and entries 4 to 0
are a_{-1} to a_{-5}, computed from H. -/
def recurrenceA (h : Acc) (b : Block) : Nat → Word32
  | 0 => rotateFormula h.h4 2
  | 1 => rotateFormula h.h3 2
  | 2 => rotateFormula h.h2 2
  | 3 => h.h1
  | 4 => h.h0
  | t + 5 => (workAfter h b (t + 1)).a

/-- Two states that agree in everything but the hidden registers (10_state.md R33 to R37). No output tells them apart. -/
abbrev SameButHidden (s t : State) : Prop := { s with hidden := t.hidden } = t

end Sys2Proof.Machine
end

