-- ==== Sys2Proof/Certificates/Slice0/Obligations.lean ====
section
/-! DEFINITION. The statements about the model. Each docstring names the rules of spec/ it rests on. -/

open Sys2Proof Sys2Proof.Machine

/-! ## Reset, ports and the clock edge -/

/-- 70_reset_and_hazards.md R230 and the reset values of 10_state.md R38: an edge with `rst = 1` leaves the reset values,
whatever the state was and whatever the host presents, and accepts no command. -/
def Obligations.ResetEdgeGivesResetValues : Prop :=
  ∀ s : State, s.wires.rst = true →
    s.cmdReady = false ∧
    ∃ t, step s = .next t ∧
      t.arch.h = ⟨0x67452301#32, 0xEFCDAB89#32, 0x98BADCFE#32, 0x10325476#32, 0xC3D2E1F0#32⟩ ∧
      t.arch.phase = .idle ∧ t.arch.byteCount = 0 ∧ t.arch.errCode = .none ∧ t.arch.npad = 0 ∧ t.busy = false ∧
      (t.wires.rst = false → t.cmdReady = true)

/-- 10_state.md R38 for the state the model starts from, with any latencies. -/
def Obligations.ResetStateValues : Prop :=
  (∃ p, State.reset = State.resetWith p) ∧
  ∀ p : Params, ∀ s : State, s = State.resetWith p →
    s.arch.h = ⟨0x67452301#32, 0xEFCDAB89#32, 0x98BADCFE#32, 0x10325476#32, 0xC3D2E1F0#32⟩ ∧
    s.arch.phase = .idle ∧ s.arch.byteCount = 0 ∧ s.arch.errCode = .none ∧ s.arch.npad = 0 ∧ s.busy = false ∧
    s.statusPort = 0 ∧ s.countPort = 0 ∧ s.digestPort = 0x67452301EFCDAB8998BADCFE10325476C3D2E1F0#160

/-- 70_reset_and_hazards.md R231: reset leaves no trace of the command in progress. Two states that agree on the host's
wires, the latencies and the model's free index step to the same state at a reset edge. R231 and 10_state.md R38 give this
for the architectural registers and `busy`; that the rest is equal too is the model's choice (the hidden registers and what
the free values depend on, log entries 4 and 17; the sampled command and the countdown, log entry 6). -/
def Obligations.ResetAbortsWithoutTrace : Prop :=
  ∀ s s' : State, s.wires.rst = true → s'.inputs = s.inputs → s'.params = s.params → s'.freeIndex = s.freeIndex →
    ∃ t, step s = .next t ∧ step s' = .next t ∧ t.arch = Arch.afterReset ∧ t.busy = false

/-- 60_exceptions.md R215: with `rst = 0` and no command in progress or presented, an edge changes no register. That the
sampled command and the countdown keep their values between commands is the model's choice (log entry 6), and so is the
list of the host's wires, of which the edge uses up the first (log entry 1). -/
def Obligations.IdleEdgeChangesNothing : Prop :=
  ∀ s : State, s.wires.rst = false → s.busy = false → s.wires.cmdValid = false →
    ∃ t, step s = .next t ∧ t.arch = s.arch ∧ t.hidden = s.hidden ∧ t.busy = false ∧ t.remaining = s.remaining ∧
      t.command = s.command ∧ t.params = s.params ∧ t.inputs = s.inputs.tail

/-- 20_memory.md R58 and 70_reset_and_hazards.md R236: an accepting edge samples CMD, DIN and LEN, raises `busy` and starts
the countdown of the command's latency. R236 says when the effects become visible; that the registers of `State` keep their
old values until then is the model's choice (log entry 2), and so is the list of the host's wires (log entry 1). -/
def Obligations.AcceptingEdgeSamples : Prop :=
  ∀ s : State, s.cmdReady = true → s.wires.cmdValid = true →
    ∃ t, step s = .next t ∧ t.command.cmdWord = s.wires.cmdWord ∧ t.command.din = s.wires.din ∧
      t.command.len = s.wires.lenIn ∧ t.busy = true ∧ t.remaining = latency t.command s.arch s.params ∧
      t.arch = s.arch ∧ t.hidden = s.hidden ∧ t.params = s.params ∧ t.inputs = s.inputs.tail

/-- 10_state.md R32: `cmd_ready` is 1 exactly when `rst` and `busy` are 0, and a command is accepted (`busy` rises) exactly
at an edge with `cmd_valid = 1` and `cmd_ready = 1`. -/
def Obligations.AcceptedExactlyWhenValidAndReady : Prop :=
  (∀ s : State, s.cmdReady = true ↔ s.wires.rst = false ∧ s.busy = false) ∧
  ∀ s t : State, step s = .next t →
    ((s.busy = false ∧ t.busy = true) ↔ (s.wires.cmdValid = true ∧ s.cmdReady = true))

/-- The model's own fields, at every edge of every kind: a step uses up the wires of its edge (log entry 1), moves on to
fresh free values (log entry 3) and keeps the latencies (log entry 7; 00_scope.md R4). -/
def Obligations.EveryStepUsesOneEdgeOfWires : Prop :=
  ∀ s : State, ∃ t, step s = .next t ∧ t.inputs = s.inputs.tail ∧ t.freeIndex = s.freeIndex + 1 ∧ t.params = s.params

/-- 20_memory.md R58: while a command is in progress the block samples nothing, so at an edge with `rst = 0` the other
input wires have no effect. -/
def Obligations.InputsIgnoredWhileBusy : Prop :=
  ∀ (s : State) (w w' : Wires) (rest : List Wires), s.busy = true → w.rst = false → w'.rst = false →
    step { s with inputs := w :: rest } = step { s with inputs := w' :: rest }

/-- 10_state.md R30, with the codes of R24 and 60_exceptions.md R201: the fields of the status word, and what is defined of
it while `busy = 1`. -/
def Obligations.StatusWordFields : Prop :=
  ∀ s : State,
    s.statusPort.extractLsb' 10 22 = 0 ∧ s.statusPort.extractLsb' 2 1 = BitVec.ofBool s.busy ∧
    (s.busy = true → s.statusPort.extractLsb' 3 1 = 0) ∧
    (s.busy = false →
      s.statusPort.extractLsb' 0 2 =
        (match s.arch.phase with | .idle => 0#2 | .absorb => 1#2 | .done => 2#2 | .fault => 3#2) ∧
      s.statusPort.extractLsb' 3 1 = (if s.arch.phase = .done then 1#1 else 0#1) ∧
      s.statusPort.extractLsb' 4 4 =
        (match s.arch.errCode with
          | .none => 0#4 | .illegalOp => 1#4 | .reservedBits => 2#4 | .sequence => 3#4 | .lenRange => 4#4
          | .lenMismatch => 5#4) ∧
      s.statusPort.extractLsb' 8 2 = s.arch.npad)

/-- 10_state.md R29 and R31: while `busy = 0`, `digest` carries H[0] in its top word down to H[4] in its lowest, in every
phase, and `count` carries byte_count. -/
def Obligations.DigestAndCountPorts : Prop :=
  ∀ s : State, s.busy = false →
    s.digestPort.extractLsb' 128 32 = s.arch.h.h0 ∧ s.digestPort.extractLsb' 96 32 = s.arch.h.h1 ∧
    s.digestPort.extractLsb' 64 32 = s.arch.h.h2 ∧ s.digestPort.extractLsb' 32 32 = s.arch.h.h3 ∧
    s.digestPort.extractLsb' 0 32 = s.arch.h.h4 ∧ s.countPort = s.arch.byteCount

/-- 20_memory.md R55: the digest as 20 bytes, word by word and most significant byte first, which is the `digest` port's
160 bits read from the top. -/
def Obligations.DigestByteOrder : Prop :=
  ∀ h : Acc, h.digestBytes.length = 20 ∧
    (∀ j, j < 4 →
      h.digestBytes[j]? = some (h.h0.extractLsb' (24 - 8 * j) 8) ∧
      h.digestBytes[4 + j]? = some (h.h1.extractLsb' (24 - 8 * j) 8) ∧
      h.digestBytes[8 + j]? = some (h.h2.extractLsb' (24 - 8 * j) 8) ∧
      h.digestBytes[12 + j]? = some (h.h3.extractLsb' (24 - 8 * j) 8) ∧
      h.digestBytes[16 + j]? = some (h.h4.extractLsb' (24 - 8 * j) 8)) ∧
    ∀ k, k < 20 → h.digestBytes[k]? = some (h.bits.extractLsb' (152 - 8 * k) 8)

/-- 20_memory.md R52: byte k of the block buffer is DIN[511-8k : 504-8k], and schedule word j is DIN[511-32j : 480-32j]. -/
def Obligations.DinLanes : Prop :=
  ∀ s : State,
    (∀ k (_ : k < 64), s.loadBlkBuf.hidden.blkBuf[k] = s.command.din.extractLsb' (504 - 8 * k) 8) ∧
    ∀ j (_ : j < 16), (schedule s.loadBlkBuf.hidden.blkBuf)[j] = s.command.din.extractLsb' (480 - 32 * j) 32

/-- 70_reset_and_hazards.md R236, for every choice of latencies and whatever the host drives meanwhile: a command accepted at
edge e0 keeps `busy` at 1 and `cmd_ready` at 0 after each edge e0 .. e0 + LAT - 1, and after edge e0 + LAT all its state
changes are there at once, those of the one atomic step of R160, with `busy` at 0. LAT is the table's. A reset edge, inside
the interval or not, aborts the command (R231). The wires after the accepted ones may end before edge e0 + LAT: from there
on the host is idle, which is the model's choice (log entry 1). -/
def Obligations.CommandCompletesAfterLatency : Prop :=
  (∀ (c : Command) (a : Arch) (p : Params),
    (check (decode c.cmdWord) c.len a ≠ .none → latency c a p = p.latErr) ∧
    (check (decode c.cmdWord) c.len a = .none →
      (decode c.cmdWord = .ok .init → latency c a p = p.latInit) ∧
      (decode c.cmdWord = .ok .block → latency c a p = p.latBlock) ∧
      (∀ l, decode c.cmdWord = .ok (.final l) → padLength l = 64 → latency c a p = p.latFinal1) ∧
      (∀ l, decode c.cmdWord = .ok (.final l) → padLength l = 128 → latency c a p = p.latFinal2))) ∧
  (∀ (s : State) (w : Wires) (ws : List Wires) (n : Nat),
    s.params.WellFormed → s.busy = false → w.rst = false → w.cmdValid = true → s.inputs = w :: ws →
    n = latency w.command s.arch s.params → (∀ j, j < n → (ws.getD j Wires.idle).rst = false) →
      (∀ k, 1 ≤ k → k ≤ n → ∃ t : State, core.run k s = .next t ∧ t.busy = true ∧ t.cmdReady = false) ∧
      ∃ t u : State, core.run (n + 1) s = .next t ∧ transact w.command s = .next u ∧ t.arch = u.arch ∧
        t.busy = false) ∧
  ∀ s : State, s.wires.rst = true →
    ∃ t, step s = .next t ∧ t.arch = Arch.afterReset ∧ t.busy = false

/-! ## Encoding -/

/-- 30_encoding.md R81: the table of representative command words. -/
def Obligations.DecodeRepresentativeWords : Prop :=
  decode 0x00000001#32 = .ok .init ∧ decode 0x00000002#32 = .ok .block ∧ decode 0x00000003#32 = .ok (.final 0) ∧
  decode 0x00000303#32 = .ok (.final 3) ∧ decode 0x00003703#32 = .ok (.final 55) ∧
  decode 0x00003803#32 = .ok (.final 56) ∧ decode 0x00003F03#32 = .ok (.final 63) ∧
  decode 0x00000000#32 = .error .illegalOp ∧ decode 0x00000004#32 = .error .illegalOp ∧
  decode 0x00000101#32 = .error .reservedBits ∧ decode 0x00000013#32 = .error .reservedBits ∧
  decode 0x00004003#32 = .error .reservedBits ∧ decode 0x80000005#32 = .error .illegalOp

/-- Decoding the word of a well-formed command gives it back, with every tail length (30_encoding.md R72, R75). -/
def Obligations.DecodeOfEncode : Prop :=
  ∀ i : Instr, i.wellFormed = true → decode (encode i) = .ok i

/-- Every word that decodes is the one word of a well-formed command: no bit of a command word is dropped (30_encoding.md
R71, R74, R75). -/
def Obligations.EncodeOfDecode : Prop :=
  ∀ (w : Word32) (i : Instr), decode w = .ok i → i.wellFormed = true ∧ encode i = w

/-- 30_encoding.md R72: a word encodes a command exactly when `(w & mask) = match` for its row; every other word is
reserved. -/
def Obligations.DecodeByMaskAndMatch : Prop :=
  ∀ w : Word32,
    (decode w = .ok .init ↔ w &&& 0xFFFFFFFF#32 = 0x00000001#32) ∧
    (decode w = .ok .block ↔ w &&& 0xFFFFFFFF#32 = 0x00000002#32) ∧
    ((∃ l, decode w = .ok (.final l)) ↔ w &&& 0xFFFFC0FF#32 = 0x00000003#32) ∧
    (∀ l, decode w = .ok (.final l) → l = (w.extractLsb' 8 6).toNat)

/-- 30_encoding.md R73: the decoder, field by field. An illegal opcode comes before reserved bits, and L is CMD[13:8]. -/
def Obligations.DecoderReadsFields : Prop :=
  ∀ w : Word32,
    (w.extractLsb' 0 4 = 1#4 → w.extractLsb' 4 28 ≠ 0 → decode w = .error .reservedBits) ∧
    (w.extractLsb' 0 4 = 1#4 → w.extractLsb' 4 28 = 0 → decode w = .ok .init) ∧
    (w.extractLsb' 0 4 = 2#4 → w.extractLsb' 4 28 ≠ 0 → decode w = .error .reservedBits) ∧
    (w.extractLsb' 0 4 = 2#4 → w.extractLsb' 4 28 = 0 → decode w = .ok .block) ∧
    (w.extractLsb' 0 4 = 3#4 → w.extractLsb' 14 18 ≠ 0 ∨ w.extractLsb' 4 4 ≠ 0 → decode w = .error .reservedBits) ∧
    (w.extractLsb' 0 4 = 3#4 → w.extractLsb' 14 18 = 0 → w.extractLsb' 4 4 = 0 →
      decode w = .ok (.final (w.extractLsb' 8 6).toNat)) ∧
    (w.extractLsb' 0 4 = 0#4 ∨ 4#4 ≤ w.extractLsb' 0 4 → decode w = .error .illegalOp)

/-! ## A step runs the decoded command -/

/-- The edge that completes a command runs it: when the sampled word decodes to i, the step is `exec i` on the state with
the host's wires used up and `blk_buf` loaded, and then `busy` falls (43_commands.md R160, 70_reset_and_hazards.md R236). -/
def Obligations.CompletingEdgeRunsDecodedCommand : Prop :=
  ∀ (s : State) (i : Instr), s.wires.rst = false → s.busy = true → s.remaining ≤ 1 →
    decode s.command.cmdWord = .ok i → step s = retireResult (exec i s.advance.loadBlkBuf)

/-- The word placed by `withFetchWord` is the command the next step runs, from any state. -/
def Obligations.FetchWordRunsNext : Prop :=
  ∀ (s : State) (nbits w : Nat) (i : Instr), decodeTableWord nbits w = some i →
    ∃ u, u = (s.withFetchWord nbits w).advance.loadBlkBuf ∧ u.arch = s.arch ∧ u.command.din = s.command.din ∧
      u.command.len = s.command.len ∧ step (s.withFetchWord nbits w) = retireResult (exec i u)

/-- 43_commands.md R160: EXECUTE loads `blk_buf`, decodes, and takes the fault CHECK reports; when CHECK reports none, the
command has its effect, which never ends in phase FAULT. -/
def Obligations.ExecuteChecksThenRuns : Prop :=
  ∀ s : State,
    (check (decode s.command.cmdWord) s.command.len s.arch ≠ .none →
      execute s = .next (s.loadBlkBuf.raiseFault (check (decode s.command.cmdWord) s.command.len s.arch))) ∧
    (check (decode s.command.cmdWord) s.command.len s.arch = .none →
      ∃ i t, decode s.command.cmdWord = .ok i ∧ execute s = exec i s.loadBlkBuf ∧ exec i s.loadBlkBuf = .next t ∧
        t.arch.phase ≠ .fault)

/-- The machine never stops: from every state a step answers a next state, so no command faults or refuses in the model's
sense (60_exceptions.md R200, R201; 40_rotate.md R101; 41_padding.md R110). -/
def Obligations.EveryStepAnswersNext : Prop :=
  ∀ s : State, SafeStep s

/-! ## The commands -/

/-- `INIT` (43_commands.md R161): in every phase it leaves the same registers, and it changes nothing else.
The fields around a command, here and below, are the model's (`SameAround`; log entries 1, 3, 6 and 7). -/
def Obligations.InitStartsDigest : Prop :=
  ∀ s : State, ∃ t, exec .init s = .next t ∧
    t.arch.h = ⟨0x67452301#32, 0xEFCDAB89#32, 0x98BADCFE#32, 0x10325476#32, 0xC3D2E1F0#32⟩ ∧
    t.arch.byteCount = 0 ∧ t.arch.npad = 0 ∧ t.arch.errCode = .none ∧ t.arch.phase = .absorb ∧
    t.hidden = s.hidden ∧ SameAround s t

/-- `BLOCK` when its checks pass (43_commands.md R162): COMPRESS of `blk_buf` into H, byte_count + 64, and its frame. -/
def Obligations.BlockAbsorbsBlock : Prop :=
  ∀ s : State, s.arch.phase = .absorb → s.arch.byteCount.toNat + 64 ≤ 2 ^ 61 - 1 →
    ∃ t, exec .block s = .next t ∧
      t.arch.h = compress s.arch.h s.hidden.blkBuf ∧ t.arch.byteCount.toNat = s.arch.byteCount.toNat + 64 ∧
      t.arch.phase = .absorb ∧ t.arch.npad = s.arch.npad ∧ t.arch.errCode = s.arch.errCode ∧
      t.hidden.muxSel = .din ∧ t.hidden.blkBuf = s.hidden.blkBuf ∧ t.hidden.padBuf = s.hidden.padBuf ∧ SameAround s t

/-- `FINAL(L)` with L ≤ 55 when its checks pass (43_commands.md R163, R164): one padding block, and its frame.
That `pad_buf[64..128)` keeps what it held is the model's choice (log entry 13); the spec calls it unspecified. -/
def Obligations.FinalPadsOneBlock : Prop :=
  ∀ (s : State) (l : Nat), l ≤ 55 → s.arch.phase = .absorb → s.command.len.toNat ≤ 2 ^ 61 - 1 →
    s.command.len.toNat = s.arch.byteCount.toNat + l →
    ∃ t p, exec (.final l) s = .next t ∧
      pad (s.hidden.blkBuf.toList.take l) l s.command.len.toNat = .ok (64, p) ∧
      t.arch.h = compress s.arch.h (blockAt p 0) ∧ t.arch.npad = 1 ∧ t.arch.byteCount = s.command.len ∧
      t.arch.phase = .done ∧ t.arch.errCode = s.arch.errCode ∧ t.hidden.muxSel = .pad0 ∧
      (∀ i (_ : i < 128), t.hidden.padBuf[i] = if i < 64 then p.getD i 0 else s.hidden.padBuf[i]) ∧
      t.hidden.blkBuf = s.hidden.blkBuf ∧ SameAround s t

/-- `FINAL(L)` with 56 ≤ L ≤ 63 when its checks pass (43_commands.md R163, R164): two padding blocks, PAD0 before PAD1, and
its frame. -/
def Obligations.FinalPadsTwoBlocks : Prop :=
  ∀ (s : State) (l : Nat), 56 ≤ l → l ≤ 63 → s.arch.phase = .absorb → s.command.len.toNat ≤ 2 ^ 61 - 1 →
    s.command.len.toNat = s.arch.byteCount.toNat + l →
    ∃ t p, exec (.final l) s = .next t ∧
      pad (s.hidden.blkBuf.toList.take l) l s.command.len.toNat = .ok (128, p) ∧
      t.arch.h = compress (compress s.arch.h (blockAt p 0)) (blockAt p 1) ∧ t.arch.npad = 2 ∧
      t.arch.byteCount = s.command.len ∧ t.arch.phase = .done ∧ t.arch.errCode = s.arch.errCode ∧
      t.hidden.muxSel = .pad1 ∧ (∀ i (_ : i < 128), t.hidden.padBuf[i] = p.getD i 0) ∧
      t.hidden.blkBuf = s.hidden.blkBuf ∧ SameAround s t

/-- What an accepted command does not read has no effect (30_encoding.md R77, 20_memory.md R58): a reserved word and INIT
read neither DIN nor LEN, BLOCK not LEN, and FINAL(L) only the bytes 0..L-1 of DIN. -/
def Obligations.UnreadOperandsIgnored : Prop :=
  ∀ (s : State) (c c' : Command), c'.cmdWord = c.cmdWord →
    (match decode c.cmdWord with
      | .error _ => True
      | .ok .init => True
      | .ok .block => c'.din = c.din
      | .ok (.final l) => c'.len = c.len ∧ ∀ k, k < l → laneByte c'.din k = laneByte c.din k) →
    ∃ t t', transact c s = .next t ∧ transact c' s = .next t' ∧ t'.arch = t.arch ∧ t'.statusPort = t.statusPort ∧
      t'.digestPort = t.digestPort ∧ t'.countPort = t.countPort

/-- 43_commands.md R166 and 60_exceptions.md R202: while `busy = 0` in DONE the digest is valid, and any command but a
well-formed `INIT` then faults, keeps H, byte_count and npad, and clears `digest_valid`; the fault of a well-formed one is
SEQUENCE. -/
def Obligations.FinishedDigestIsClosed : Prop :=
  ∀ (s : State) (c : Command), s.arch.phase = .done → s.busy = false →
    s.digestValid = true ∧ s.digestPort = s.arch.h.bits ∧
    (decode c.cmdWord ≠ .ok .init →
      ∃ t, transact c s = .next t ∧ t.arch.phase = .fault ∧ t.arch.h = s.arch.h ∧
        t.arch.byteCount = s.arch.byteCount ∧ t.arch.npad = s.arch.npad ∧ t.digestValid = false ∧
        ((∃ i, decode c.cmdWord = .ok i) → t.arch.errCode = .sequence))

/-- 10_state.md R22: an edge writes the accumulators only by reset, by `INIT`, which loads IV, or by COMPRESS: for `BLOCK`
once, on the block DIN carries, and for `FINAL(L)` on the padding blocks PAD makes from its tail and LEN, PAD1 after PAD0
exactly when N = 128 (43_commands.md R164). That `State` changes H at the completing edge and at no other is the model's
choice of when effects land (43_commands.md R160, 70_reset_and_hazards.md R236; log entry 2). -/
def Obligations.AccumulatorsWrittenOnlyByInitAndCompress : Prop :=
  ∀ s t : State, step s = .next t → s.wires.rst = false → t.arch.h ≠ s.arch.h →
    s.busy = true ∧ s.remaining ≤ 1 ∧
    ((decode s.command.cmdWord = .ok .init ∧
      t.arch.h = ⟨0x67452301#32, 0xEFCDAB89#32, 0x98BADCFE#32, 0x10325476#32, 0xC3D2E1F0#32⟩) ∨
     (decode s.command.cmdWord = .ok .block ∧ t.arch.h = compress s.arch.h (laneBlock s.command.din)) ∨
     ∃ l n p, decode s.command.cmdWord = .ok (.final l) ∧
       pad (tail l (laneBlock s.command.din)) l s.command.len.toNat = .ok (n, p) ∧
       (n = 64 ∧ t.arch.h = compress s.arch.h (blockAt p 0) ∨
        n = 128 ∧ t.arch.h = compress (compress s.arch.h (blockAt p 0)) (blockAt p 1)))

/-! ## Faults -/

/-- 60_exceptions.md R202, 30_encoding.md R73: the code CHECK reports, in its order of priority. -/
def Obligations.CheckReportsFirstFault : Prop :=
  ∀ (w : Word32) (len : Word64) (a : Arch),
    (check (decode w) len a = .illegalOp ↔ decode w = .error .illegalOp) ∧
    (check (decode w) len a = .reservedBits ↔ decode w = .error .reservedBits) ∧
    (check (decode w) len a = .sequence ↔ (∃ i, decode w = .ok i ∧ i ≠ .init) ∧ a.phase ≠ .absorb) ∧
    (check (decode w) len a = .lenRange ↔ a.phase = .absorb ∧
      (decode w = .ok .block ∧ a.byteCount.toNat + 64 > 2 ^ 61 - 1 ∨
       (∃ l, decode w = .ok (.final l)) ∧ len.toNat > 2 ^ 61 - 1)) ∧
    (check (decode w) len a = .lenMismatch ↔ a.phase = .absorb ∧ len.toNat ≤ 2 ^ 61 - 1 ∧
      ∃ l, decode w = .ok (.final l) ∧ len.toNat ≠ a.byteCount.toNat + l) ∧
    (check (decode w) len a = .none ↔ decode w = .ok .init ∨ a.phase = .absorb ∧
      (decode w = .ok .block ∧ a.byteCount.toNat + 64 ≤ 2 ^ 61 - 1 ∨
       len.toNat ≤ 2 ^ 61 - 1 ∧ ∃ l, decode w = .ok (.final l) ∧ len.toNat = a.byteCount.toNat + l))

/-- `BLOCK` and `FINAL` outside ABSORB, BLOCK past the length limit, FINAL past it, and FINAL with a wrong total length:
each takes its fault and changes nothing but `err_code` and `phase` (60_exceptions.md R201, R203, R204); in FAULT, where the
first code is kept, nothing at all (R206). The fields of `State` outside the registers are the model's (log entries 1, 3, 4,
6 and 7). -/
def Obligations.CommandFaultsChangeOnlyCodeAndPhase : Prop :=
  ∀ (s : State) (l : Nat),
    (s.arch.phase = .idle ∨ s.arch.phase = .done →
      exec .block s = .next { s with arch := { s.arch with errCode := .sequence, phase := .fault } } ∧
      exec (.final l) s = .next { s with arch := { s.arch with errCode := .sequence, phase := .fault } }) ∧
    (s.arch.phase = .fault → exec .block s = .next s ∧ exec (.final l) s = .next s) ∧
    (s.arch.phase = .absorb → s.arch.byteCount.toNat + 64 > 2 ^ 61 - 1 →
      exec .block s = .next { s with arch := { s.arch with errCode := .lenRange, phase := .fault } }) ∧
    (s.arch.phase = .absorb → s.command.len.toNat > 2 ^ 61 - 1 →
      exec (.final l) s = .next { s with arch := { s.arch with errCode := .lenRange, phase := .fault } }) ∧
    (s.arch.phase = .absorb → s.command.len.toNat ≤ 2 ^ 61 - 1 →
      s.command.len.toNat ≠ s.arch.byteCount.toNat + l →
      exec (.final l) s = .next { s with arch := { s.arch with errCode := .lenMismatch, phase := .fault } })

/-- 60_exceptions.md R203: fault entry. A command with a reserved word records its code and enters FAULT; the first code is
kept; H, byte_count and npad keep their values; the host sees phase 3 and the code when `busy` falls. -/
def Obligations.ReservedWordEntersFault : Prop :=
  ∀ (s : State) (c : ErrCode), s.wires.rst = false → s.busy = true → s.remaining ≤ 1 →
    decode s.command.cmdWord = .error c →
    ∃ t, step s = .next t ∧ t.arch.phase = .fault ∧
      t.arch.errCode = (if s.arch.phase = .fault then s.arch.errCode else c) ∧ t.arch.h = s.arch.h ∧
      t.arch.byteCount = s.arch.byteCount ∧ t.arch.npad = s.arch.npad ∧ t.busy = false ∧
      t.statusPort.extractLsb' 0 2 = 3#2 ∧ t.statusPort.extractLsb' 4 4 = errCodeBits t.arch.errCode

/-- 60_exceptions.md R204: faults are precise. If a command ends in phase FAULT, it ran no COMPRESS and wrote neither H,
byte_count nor npad, nor any hidden register but `blk_buf`, which every command loads (43_commands.md R160). -/
def Obligations.FaultsArePrecise : Prop :=
  ∀ s t : State, execute s = .next t → t.arch.phase = .fault →
    t.arch.h = s.arch.h ∧ t.arch.byteCount = s.arch.byteCount ∧ t.arch.npad = s.arch.npad ∧
    t.hidden = { s.hidden with blkBuf := laneBlock s.command.din }

/-- 60_exceptions.md R205 and R206: in FAULT nothing changes the registers, and the block leaves FAULT only through a
well-formed `INIT`, which clears `err_code`, or through reset. That `State` changes at the completing edge and at no other
is the model's choice of when effects land (43_commands.md R160, 70_reset_and_hazards.md R236; log entry 2). -/
def Obligations.FaultLeftOnlyByInitOrReset : Prop :=
  ∀ s t : State, s.arch.phase = .fault → step s = .next t → t.arch ≠ s.arch →
    (s.wires.rst = true ∧ t.arch = Arch.afterReset) ∨
    (s.wires.rst = false ∧ s.busy = true ∧ s.remaining ≤ 1 ∧ decode s.command.cmdWord = .ok .init ∧
      t.arch.phase = .absorb ∧ t.arch.errCode = .none)

/-- 60_exceptions.md R206: a fault taken in phase FAULT changes nothing; `BLOCK`, `FINAL` and every reserved word, a
malformed `INIT` among them, leave all registers as they are. -/
def Obligations.FaultInFaultChangesNothing : Prop :=
  ∀ (s : State) (c : Command), s.arch.phase = .fault → decode c.cmdWord ≠ .ok .init →
    ∃ t, transact c s = .next t ∧ t.arch = s.arch

/-! ## Invariants -/

/-- The reset state has the invariant, for every choice of latencies R4 allows. -/
def Obligations.ResetHasInvariant : Prop :=
  State.reset.Inv ∧ ∀ p : Params, p.WellFormed → (State.resetWith p).Inv

/-- Every step keeps the invariant: the byte_count, npad and err_code clauses of 10_state.md R25 to R27, and `busy` with
its countdown. -/
def Obligations.StepKeepsInvariant : Prop :=
  ∀ s t : State, s.Inv → step s = .next t → t.Inv

/-- 20_memory.md R63, 10_state.md section 4, U6: no hidden register is read before the command that reads it has written
it. Whatever the hidden registers hold, a step gives the same everything else, and every output port the same. (That the
outputs agree while busy = 1 is the model's choice, log entry 17.) -/
def Obligations.HiddenStateNeverObserved : Prop :=
  ∀ (s : State) (x : Hidden),
    ∃ t t', step s = .next t ∧ step { s with hidden := x } = .next t' ∧ SameButHidden t t' ∧
      t'.statusPort = t.statusPort ∧ t'.digestPort = t.digestPort ∧ t'.countPort = t.countPort ∧
      t'.cmdReady = t.cmdReady

/-! ## ROTL32 -/

/-- 40_rotate.md R100: bit i of ROTL32(x, n) is bit (i - n) mod 32 of x, for every n in 1..31. -/
def Obligations.RotateMovesBits : Prop :=
  ∀ (x : Word32) (n : Nat), 1 ≤ n → n ≤ 31 →
    ∃ r, rotl32 x n = .ok r ∧ ∀ i, i < 32 → r.getLsbD i = x.getLsbD ((i + 32 - n) % 32)

/-- 40_rotate.md R101 and R102: an amount outside 1..31 is refused; the datapath's three wired amounts are 1, 5 and 30 and
are inside. -/
def Obligations.RotateRefusesOtherAmounts : Prop :=
  (∀ (x : Word32) (n : Nat), n = 0 ∨ 32 ≤ n → rotl32 x n = .error (.rotateAmount n)) ∧
  ∀ x : Word32, rotl32 x 1 = .ok (rotl x .one) ∧ rotl32 x 5 = .ok (rotl x .five) ∧ rotl32 x 30 = .ok (rotl x .thirty)

/-- 40_rotate.md R103: the identities of ROTL32 on its domain. -/
def Obligations.RotateIdentities : Prop :=
  ∀ (x y : Word32) (n : Nat), 1 ≤ n → n ≤ 31 →
    ∃ rx ry, rotl32 x n = .ok rx ∧ rotl32 y n = .ok ry ∧
      rx = (x <<< n) + (x >>> (32 - n)) ∧ rotl32 rx (32 - n) = .ok x ∧
      rotl32 (x ^^^ y) n = .ok (rx ^^^ ry) ∧ rotl32 (x &&& y) n = .ok (rx &&& ry) ∧
      rotl32 (x ||| y) n = .ok (rx ||| ry)

/-! ## PAD -/

/-- 41_padding.md R111 to R115: on its domain PAD answers N and P[0..N) with the tail verbatim, the marker, zeros, and the
big-endian bit length in the last 8 bytes. -/
def Obligations.PaddingLayout : Prop :=
  ∀ (t : List Byte) (l m : Nat), t.length = l → l ≤ 63 → m ≤ 2 ^ 61 - 1 →
    ∃ n p, pad t l m = .ok (n, p) ∧ n = (if l < 56 then 64 else 128) ∧ p.length = n ∧
      (∀ i, i < l → p[i]? = t[i]?) ∧ p[l]? = some 0x80#8 ∧
      (∀ i, l + 1 ≤ i → i ≤ n - 9 → p[i]? = some 0#8) ∧
      m * 8 < 2 ^ 64 ∧
      ∀ k, k < 8 → p[n - 8 + k]? = some ((BitVec.ofNat 64 (m * 8)).extractLsb' (56 - 8 * k) 8)

/-- The last 8 bytes of the padding, read as one big-endian number, are M * 8: no bit of the length is lost (41_padding.md
R115); and N - L ≥ 9 (R117). -/
def Obligations.PaddingEndsInBitLength : Prop :=
  ∀ (t : List Byte) (l m : Nat), t.length = l → l ≤ 63 → m ≤ 2 ^ 61 - 1 →
    ∃ n p, pad t l m = .ok (n, p) ∧ l + 9 ≤ n ∧
      (p.drop (n - 8)).foldl (fun v b => v * 256 + b.toNat) 0 = m * 8

/-- PAD refuses operands outside its domain (41_padding.md R110, U2). -/
def Obligations.PaddingRefusesOutsideDomain : Prop :=
  ∀ (t : List Byte) (l m : Nat), t.length ≠ l ∨ 63 < l ∨ 2 ^ 61 - 1 < m → pad t l m = .error (.padOperands l m)

/-- 41_padding.md R116: the source's loop, which stops early, gives the same bytes as the rule for every tail and every
length. -/
def Obligations.PaddingLoopGivesSameBytes : Prop :=
  ∀ (t : List Byte) (l m : Nat), t.length = l → l ≤ 63 → m ≤ 2 ^ 61 - 1 →
    ∃ n, pad t l m = .ok (n, padByLoop t l m)

/-! ## COMPRESS -/

/-- 42_compressor.md R131 and R132: the message schedule, word by word. -/
def Obligations.ScheduleWords : Prop :=
  ∀ b : Block,
    (∀ j (_ : j < 16), (schedule b)[j] = b[4 * j] ++ b[4 * j + 1] ++ b[4 * j + 2] ++ b[4 * j + 3]) ∧
    ∀ i (_ : 16 ≤ i) (_ : i < 80),
      rotl32 ((schedule b)[i - 3] ^^^ (schedule b)[i - 8] ^^^ (schedule b)[i - 14] ^^^ (schedule b)[i - 16]) 1 =
        .ok (schedule b)[i]

/-- 42_compressor.md R134: the mixing function and the constant of each round. -/
def Obligations.RoundFunctionTable : Prop :=
  ∀ (t : Nat) (b c d : Word32),
    (t ≤ 19 → roundFn t b c d = ((b &&& c) ^^^ (~~~b &&& d), 0x5A827999#32)) ∧
    (20 ≤ t → t ≤ 39 → roundFn t b c d = (b ^^^ c ^^^ d, 0x6ED9EBA1#32)) ∧
    (40 ≤ t → t ≤ 59 → roundFn t b c d = ((b &&& c) ^^^ (b &&& d) ^^^ (c &&& d), 0x8F1BBCDC#32)) ∧
    (60 ≤ t → t ≤ 79 → roundFn t b c d = (b ^^^ c ^^^ d, 0xCA62C1D6#32))

/-- 42_compressor.md R133, R135, R136 and R137: COMPRESS loads a..e from H, runs the 80 rounds in order, round t on W[t]
with all five variables updated at once, and adds the result into H. -/
def Obligations.CompressRunsEightyRounds : Prop :=
  ∀ (h : Acc) (b : Block),
    workAfter h b 0 = ⟨h.h0, h.h1, h.h2, h.h3, h.h4⟩ ∧
    (∀ t (_ : t < 80), ∀ v, v = workAfter h b t → ∃ r5 r30,
      rotl32 v.a 5 = .ok r5 ∧ rotl32 v.b 30 = .ok r30 ∧
      workAfter h b (t + 1) =
        ⟨r5 + (roundFn t v.b v.c v.d).1 + v.e + (roundFn t v.b v.c v.d).2 + (schedule b)[t], v.a, r30, v.c, v.d⟩) ∧
    compress h b =
      ⟨h.h0 + (workAfter h b 80).a, h.h1 + (workAfter h b 80).b, h.h2 + (workAfter h b 80).c,
        h.h3 + (workAfter h b 80).d, h.h4 + (workAfter h b 80).e⟩

/-- 42_compressor.md R140: group 0 is an OR and a choice by b's bit, group 2 is the bitwise majority, and groups 1 and 3
are the bitwise parity. -/
def Obligations.MixingIdentities : Prop :=
  ∀ b c d : Word32,
    (b &&& c) &&& (~~~b &&& d) = 0 ∧ mix 0 b c d = (b &&& c) ||| (~~~b &&& d) ∧
    (∀ i, (mix 0 b c d).getLsbD i = if b.getLsbD i then c.getLsbD i else d.getLsbD i) ∧
    mix 2 b c d = (b &&& c) ||| (b &&& d) ||| (c &&& d) ∧
    ∀ i, (mix 1 b c d).getLsbD i = (b.getLsbD i ^^ c.getLsbD i ^^ d.getLsbD i) ∧
      (mix 3 b c d).getLsbD i = (b.getLsbD i ^^ c.getLsbD i ^^ d.getLsbD i)

/-- 42_compressor.md R141: each round makes only one new value; b, c, d and e are earlier values of a. With n rounds run,
`recurrenceA h b (n + 4)` is a after round n - 1. -/
def Obligations.RoundsMakeOneNewValue : Prop :=
  ∀ (h : Acc) (b : Block) (n : Nat), n ≤ 80 →
    (workAfter h b n).a = recurrenceA h b (n + 4) ∧ (workAfter h b n).b = recurrenceA h b (n + 3) ∧
    rotl32 (recurrenceA h b (n + 2)) 30 = .ok (workAfter h b n).c ∧
    rotl32 (recurrenceA h b (n + 1)) 30 = .ok (workAfter h b n).d ∧
    rotl32 (recurrenceA h b n) 30 = .ok (workAfter h b n).e

/-- 42_compressor.md R139: a window of 16 words that computes W[t] just before round t gives the same compression as the
80-word schedule. -/
def Obligations.WindowScheduleCompressesAlike : Prop :=
  ∀ (h : Acc) (b : Block), compressWindow h b = compress h b

/-! ## Whole messages, the assembler and the platform -/

/-- 43_commands.md R165: SHA1(m) is COMPRESS folded, from the initial value, over the complete blocks of m and then the
one or two padding blocks of its tail; block k of m is m[64k .. 64k + 64) (00_scope.md R7). -/
def Obligations.Sha1FoldsCompress : Prop :=
  ∀ m : List Byte, m.length ≤ 2 ^ 61 - 1 →
    ∃ n p, pad (m.drop (64 * (m.length / 64))) (m.length % 64) m.length = .ok (n, p) ∧
      sha1 m = .ok (((List.range (m.length / 64)).map (blockAt m) ++
        (if n = 128 then [blockAt p 0, blockAt p 1] else [blockAt p 0])).foldl compress
          ⟨0x67452301#32, 0xEFCDAB89#32, 0x98BADCFE#32, 0x10325476#32, 0xC3D2E1F0#32⟩) ∧
      ∀ k i (_ : i < 64), 64 * k + i < m.length → m[64 * k + i]? = some (blockAt m k)[i]

/-- 43_commands.md R167: from any state with `busy = 0`, the commands of `HASH m` end in DONE with err_code 0, byte_count
n, npad by the tail's length, and the digest SHA1(m) on the port; no command on the way faults. -/
def Obligations.HashEndsInDigest : Prop :=
  ∀ (m : List Byte) (s : State), m.length ≤ 2 ^ 61 - 1 → s.busy = false →
    ∃ t h, runCommands (hashCommands m) s = .next t ∧ sha1 m = .ok h ∧
      t.arch.phase = .done ∧ t.arch.errCode = .none ∧ t.arch.byteCount.toNat = m.length ∧
      t.arch.npad = (if m.length % 64 < 56 then 1 else 2) ∧ t.busy = false ∧ t.digestValid = true ∧
      t.digestPort = h.h0 ++ h.h1 ++ h.h2 ++ h.h3 ++ h.h4 ∧
      ∀ k, 1 ≤ k → ∃ u, runCommands ((hashCommands m).take k) s = .next u ∧ u.arch.phase ≠ .fault

/-- 43_commands.md R169: after `INIT` nothing depends on what came before. The same commands after it, from any two states,
give the same registers, status, digest and count. -/
def Obligations.InitForgetsHistory : Prop :=
  ∀ (cs : List Command) (c : Command) (s s' : State), decode c.cmdWord = .ok .init →
    ∃ t t', runCommands (c :: cs) s = .next t ∧ runCommands (c :: cs) s' = .next t' ∧ t'.arch = t.arch ∧
      t'.statusPort = t.statusPort ∧ t'.digestPort = t.digestPort ∧ t'.countPort = t.countPort

/-- 43_commands.md R168: for every chunk size that is a multiple of 64, the file driver's commands are those of `HASH`. -/
def Obligations.ChunkSizeDoesNotMatter : Prop :=
  ∀ (c : Nat) (m : List Byte), 0 < c → c % 64 = 0 → fileCommands c m = hashCommands m

/-- 30_encoding.md R79: the triple of a `BLOCK` or `FINAL` line carries its bytes in the lanes of `din`, zeros after them,
its total length and its tail length; a line with the wrong byte count, L > 63 or M ≥ 2^64 is rejected. -/
def Obligations.AssemblerPlacesOperands : Prop :=
  assembleLine .init = some [⟨0x00000001#32, 0, 0⟩] ∧
  (∀ bytes : List Byte,
    (bytes.length ≠ 64 → assembleLine (.block bytes) = none) ∧
    (bytes.length = 64 → ∃ c, assembleLine (.block bytes) = some [c] ∧ c.cmdWord = 0x00000002#32 ∧ c.len = 0 ∧
      ∀ k (_ : k < 64), (laneBlock c.din)[k] = bytes.getD k 0)) ∧
  ∀ (l m : Nat) (bytes : List Byte),
    (63 < l ∨ bytes.length ≠ l ∨ 2 ^ 64 ≤ m → assembleLine (.final l m bytes) = none) ∧
    (l ≤ 63 → bytes.length = l → m < 2 ^ 64 → ∃ c, assembleLine (.final l m bytes) = some [c] ∧
      decode c.cmdWord = .ok (.final l) ∧ c.len.toNat = m ∧ ∀ k (_ : k < 64), (laneBlock c.din)[k] = bytes.getD k 0)

/-- 20_memory.md R64 and 60_exceptions.md R213: an edge at one instance of a platform is that instance's own step and
changes no other instance. That an edge of the platform is an edge at one named instance is the model's choice (log entry
8). -/
def Obligations.InstancesShareNoState : Prop :=
  ∀ (p : Platform) (k : Nat) (s : State), p.instances[k]? = some s →
    ∃ q t, p.edge k = some q ∧ step s = .next t ∧ q.instances[k]? = some t ∧
      q.instances.length = p.instances.length ∧ ∀ j, j ≠ k → q.instances[j]? = p.instances[j]?

/-- 30_encoding.md R79, the `RAW` lines: the word, the total length or 0, and the 64 bytes in their lanes or 0; a line with
w ≥ 2^32, M ≥ 2^64 or a byte count that is not 64 is rejected. Last, the model's own rejection (log entry 14): a `HASH` line
with a message longer than MAX_MSG_BYTES, for which R80 gives no expansion. -/
def Obligations.AssemblerPlacesRawOperands : Prop :=
  (∀ w m : Nat,
    (2 ^ 32 ≤ w ∨ 2 ^ 64 ≤ m →
      assembleLine (.raw w m none) = none ∧ ∀ bytes, assembleLine (.raw w m (some bytes)) = none) ∧
    (∀ bytes : List Byte, bytes.length ≠ 64 → assembleLine (.raw w m (some bytes)) = none) ∧
    (w < 2 ^ 32 → m < 2 ^ 64 →
      (∃ c, assembleLine (.raw w m none) = some [c] ∧ c.cmdWord.toNat = w ∧ c.din = 0 ∧ c.len.toNat = m) ∧
      ∀ bytes : List Byte, bytes.length = 64 →
        ∃ c, assembleLine (.raw w m (some bytes)) = some [c] ∧ c.cmdWord.toNat = w ∧ c.len.toNat = m ∧
          ∀ k (_ : k < 64), (laneBlock c.din)[k] = bytes.getD k 0)) ∧
  ∀ m : List Byte, 2 ^ 61 - 1 < m.length → assembleLine (.hash m) = none

/-- 30_encoding.md R80: `HASH m`, for at most MAX_MSG_BYTES bytes, assembles to what the lines `INIT`, then
`BLOCK m[64k..64k+64)` for each of the n >> 6 complete blocks, then `FINAL (n & 63), n, m[64q..n)` assemble to. -/
def Obligations.HashExpandsToLines : Prop :=
  ∀ m : List Byte, m.length ≤ 2 ^ 61 - 1 →
    ∃ css,
      (AsmLine.init ::
        ((List.range (m.length >>> 6)).map fun k => AsmLine.block ((m.drop (64 * k)).take 64)) ++
        [AsmLine.final (m.length &&& 63) m.length (m.drop (64 * (m.length >>> 6)))]).mapM assembleLine = some css ∧
      assembleLine (.hash m) = some css.flatten
end

