-- ==== Sys2Proof/Laws/Buffers.lean ====
section
/-! SUPPORT. The bytes of the buffers, one by one. -/

namespace Sys2Proof.Machine

theorem laneBlock_getElem (din : BitVec 512) (k : Nat) (hk : k < 64) : (laneBlock din)[k] = laneByte din k := by
  unfold laneBlock
  exact Vector.getElem_ofFn ..

theorem padBlock_getElem (p : Vector Byte 128) (k : Fin 2) (i : Nat) (hi : i < 64) :
    (padBlock p k)[i] = p[64 * k.val + i] := by
  unfold padBlock
  exact Vector.getElem_ofFn ..

theorem overwritePad_getElem (p : List Byte) (buf : Vector Byte 128) (i : Nat) (hi : i < 128) :
    (overwritePad p buf)[i] = p.getD i buf[i] := by
  unfold overwritePad
  exact Vector.getElem_ofFn ..

theorem blockAt_getElem (m : List Byte) (k i : Nat) (hi : i < 64) : (blockAt m k)[i] = m.getD (64 * k + i) 0 := by
  unfold blockAt
  exact Vector.getElem_ofFn ..

/-- PAD0 of a buffer just written is the first block of the padding. -/
theorem padBlock_overwritePad_zero {p : List Byte} (hp : 64 ≤ p.length) (buf : Vector Byte 128) :
    padBlock (overwritePad p buf) 0 = blockAt p 0 := by
  refine Vector.ext fun i hi => ?_
  have h : i < p.length := by omega
  rw [padBlock_getElem, overwritePad_getElem, blockAt_getElem]
  simp [h]

/-- PAD1 of a buffer just written with 128 bytes is their second block. -/
theorem padBlock_overwritePad_one {p : List Byte} (hp : 128 ≤ p.length) (buf : Vector Byte 128) :
    padBlock (overwritePad p buf) 1 = blockAt p 1 := by
  refine Vector.ext fun i hi => ?_
  have h : 64 + i < p.length := by omega
  rw [padBlock_getElem, overwritePad_getElem, blockAt_getElem]
  simp [h]

end Sys2Proof.Machine
end

