-- ==== Sys2Proof/Laws/State.lean ====
section
/-! SUPPORT. One lemma per field per update of the state, each true by `rfl` once the
record is taken apart, so that no later proof unfolds an update. (Taking it apart first keeps the kernel from comparing
whole states, compressions and all, when `simp` uses the lemma on a large term.) -/

namespace Sys2Proof.Machine

variable (s : State)

/-! ### Register writes -/

@[simp] theorem Arch.setH_h (v : Acc) (a : Arch) : (a.setH v).h = v := by cases a; rfl
@[simp] theorem Arch.setH_phase (v : Acc) (a : Arch) : (a.setH v).phase = a.phase := by cases a; rfl
@[simp] theorem Arch.setH_byteCount (v : Acc) (a : Arch) : (a.setH v).byteCount = a.byteCount := by cases a; rfl
@[simp] theorem Arch.setH_errCode (v : Acc) (a : Arch) : (a.setH v).errCode = a.errCode := by cases a; rfl
@[simp] theorem Arch.setH_npad (v : Acc) (a : Arch) : (a.setH v).npad = a.npad := by cases a; rfl
@[simp] theorem Hidden.setBlkBuf_work (v : Block) (h : Hidden) : (h.setBlkBuf v).work = h.work := by cases h; rfl
@[simp] theorem Hidden.setBlkBuf_w (v : Block) (h : Hidden) : (h.setBlkBuf v).w = h.w := by cases h; rfl
@[simp] theorem Hidden.setBlkBuf_blkBuf (v : Block) (h : Hidden) : (h.setBlkBuf v).blkBuf = v := by cases h; rfl
@[simp] theorem Hidden.setBlkBuf_padBuf (v : Block) (h : Hidden) : (h.setBlkBuf v).padBuf = h.padBuf := by cases h; rfl
@[simp] theorem Hidden.setBlkBuf_muxSel (v : Block) (h : Hidden) : (h.setBlkBuf v).muxSel = h.muxSel := by cases h; rfl
@[simp] theorem Hidden.setBlkBuf_t (v : Block) (h : Hidden) : (h.setBlkBuf v).t = h.t := by cases h; rfl
@[simp] theorem Hidden.setPadBuf_work (v : Vector Byte 128) (h : Hidden) : (h.setPadBuf v).work = h.work :=
    by cases h; rfl
@[simp] theorem Hidden.setPadBuf_w (v : Vector Byte 128) (h : Hidden) : (h.setPadBuf v).w = h.w := by cases h; rfl
@[simp] theorem Hidden.setPadBuf_blkBuf (v : Vector Byte 128) (h : Hidden) : (h.setPadBuf v).blkBuf = h.blkBuf :=
    by cases h; rfl
@[simp] theorem Hidden.setPadBuf_padBuf (v : Vector Byte 128) (h : Hidden) : (h.setPadBuf v).padBuf = v :=
    by cases h; rfl
@[simp] theorem Hidden.setPadBuf_muxSel (v : Vector Byte 128) (h : Hidden) : (h.setPadBuf v).muxSel = h.muxSel :=
    by cases h; rfl
@[simp] theorem Hidden.setPadBuf_t (v : Vector Byte 128) (h : Hidden) : (h.setPadBuf v).t = h.t := by cases h; rfl
@[simp] theorem Hidden.setMuxSel_work (v : MuxSel) (h : Hidden) : (h.setMuxSel v).work = h.work := by cases h; rfl
@[simp] theorem Hidden.setMuxSel_w (v : MuxSel) (h : Hidden) : (h.setMuxSel v).w = h.w := by cases h; rfl
@[simp] theorem Hidden.setMuxSel_blkBuf (v : MuxSel) (h : Hidden) : (h.setMuxSel v).blkBuf = h.blkBuf := by cases h; rfl
@[simp] theorem Hidden.setMuxSel_padBuf (v : MuxSel) (h : Hidden) : (h.setMuxSel v).padBuf = h.padBuf := by cases h; rfl
@[simp] theorem Hidden.setMuxSel_muxSel (v : MuxSel) (h : Hidden) : (h.setMuxSel v).muxSel = v := by cases h; rfl
@[simp] theorem Hidden.setMuxSel_t (v : MuxSel) (h : Hidden) : (h.setMuxSel v).t = h.t := by cases h; rfl
@[simp] theorem Hidden.setCompression_work (w : Vector Word32 80) (v : Work) (t : Fin 80) (h : Hidden) :
    (h.setCompression w v t).work = v := by cases h; rfl
@[simp] theorem Hidden.setCompression_w (w : Vector Word32 80) (v : Work) (t : Fin 80) (h : Hidden) :
    (h.setCompression w v t).w = w := by cases h; rfl
@[simp] theorem Hidden.setCompression_blkBuf (w : Vector Word32 80) (v : Work) (t : Fin 80) (h : Hidden) :
    (h.setCompression w v t).blkBuf = h.blkBuf := by cases h; rfl
@[simp] theorem Hidden.setCompression_padBuf (w : Vector Word32 80) (v : Work) (t : Fin 80) (h : Hidden) :
    (h.setCompression w v t).padBuf = h.padBuf := by cases h; rfl
@[simp] theorem Hidden.setCompression_muxSel (w : Vector Word32 80) (v : Work) (t : Fin 80) (h : Hidden) :
    (h.setCompression w v t).muxSel = h.muxSel := by cases h; rfl
@[simp] theorem Hidden.setCompression_t (w : Vector Word32 80) (v : Work) (t : Fin 80) (h : Hidden) :
    (h.setCompression w v t).t = t := by cases h; rfl
@[simp] theorem State.setArch_arch (v : Arch) : (s.setArch v).arch = v := by cases s; rfl
@[simp] theorem State.setArch_hidden (v : Arch) : (s.setArch v).hidden = s.hidden := by cases s; rfl
@[simp] theorem State.setArch_busy (v : Arch) : (s.setArch v).busy = s.busy := by cases s; rfl
@[simp] theorem State.setArch_remaining (v : Arch) : (s.setArch v).remaining = s.remaining := by cases s; rfl
@[simp] theorem State.setArch_command (v : Arch) : (s.setArch v).command = s.command := by cases s; rfl
@[simp] theorem State.setArch_inputs (v : Arch) : (s.setArch v).inputs = s.inputs := by cases s; rfl
@[simp] theorem State.setArch_freeIndex (v : Arch) : (s.setArch v).freeIndex = s.freeIndex := by cases s; rfl
@[simp] theorem State.setArch_params (v : Arch) : (s.setArch v).params = s.params := by cases s; rfl
@[simp] theorem State.setHidden_arch (v : Hidden) : (s.setHidden v).arch = s.arch := by cases s; rfl
@[simp] theorem State.setHidden_hidden (v : Hidden) : (s.setHidden v).hidden = v := by cases s; rfl
@[simp] theorem State.setHidden_busy (v : Hidden) : (s.setHidden v).busy = s.busy := by cases s; rfl
@[simp] theorem State.setHidden_remaining (v : Hidden) : (s.setHidden v).remaining = s.remaining := by cases s; rfl
@[simp] theorem State.setHidden_command (v : Hidden) : (s.setHidden v).command = s.command := by cases s; rfl
@[simp] theorem State.setHidden_inputs (v : Hidden) : (s.setHidden v).inputs = s.inputs := by cases s; rfl
@[simp] theorem State.setHidden_freeIndex (v : Hidden) : (s.setHidden v).freeIndex = s.freeIndex := by cases s; rfl
@[simp] theorem State.setHidden_params (v : Hidden) : (s.setHidden v).params = s.params := by cases s; rfl

/-! ### loadBlkBuf -/

@[simp] theorem State.loadBlkBuf_arch : s.loadBlkBuf.arch = s.arch := by simp [State.loadBlkBuf]
@[simp] theorem State.loadBlkBuf_hidden_work : s.loadBlkBuf.hidden.work = s.hidden.work := by simp [State.loadBlkBuf]
@[simp] theorem State.loadBlkBuf_hidden_w : s.loadBlkBuf.hidden.w = s.hidden.w := by simp [State.loadBlkBuf]
@[simp] theorem State.loadBlkBuf_hidden_blkBuf : s.loadBlkBuf.hidden.blkBuf = laneBlock s.command.din := by simp [State.loadBlkBuf]
@[simp] theorem State.loadBlkBuf_hidden_padBuf : s.loadBlkBuf.hidden.padBuf = s.hidden.padBuf := by simp [State.loadBlkBuf]
@[simp] theorem State.loadBlkBuf_hidden_muxSel : s.loadBlkBuf.hidden.muxSel = s.hidden.muxSel := by simp [State.loadBlkBuf]
@[simp] theorem State.loadBlkBuf_hidden_t : s.loadBlkBuf.hidden.t = s.hidden.t := by simp [State.loadBlkBuf]
@[simp] theorem State.loadBlkBuf_busy : s.loadBlkBuf.busy = s.busy := by simp [State.loadBlkBuf]
@[simp] theorem State.loadBlkBuf_remaining : s.loadBlkBuf.remaining = s.remaining := by simp [State.loadBlkBuf]
@[simp] theorem State.loadBlkBuf_command : s.loadBlkBuf.command = s.command := by simp [State.loadBlkBuf]
@[simp] theorem State.loadBlkBuf_inputs : s.loadBlkBuf.inputs = s.inputs := by simp [State.loadBlkBuf]
@[simp] theorem State.loadBlkBuf_freeIndex : s.loadBlkBuf.freeIndex = s.freeIndex := by simp [State.loadBlkBuf]
@[simp] theorem State.loadBlkBuf_params : s.loadBlkBuf.params = s.params := by simp [State.loadBlkBuf]

/-! ### raiseFault -/

@[simp] theorem State.raiseFault_arch_h (c : ErrCode) : (s.raiseFault c).arch.h = s.arch.h := by cases s; rfl
@[simp] theorem State.raiseFault_arch_phase (c : ErrCode) : (s.raiseFault c).arch.phase = .fault := by cases s; rfl
@[simp] theorem State.raiseFault_arch_byteCount (c : ErrCode) : (s.raiseFault c).arch.byteCount = s.arch.byteCount :=
    by cases s; rfl
@[simp] theorem State.raiseFault_arch_errCode (c : ErrCode) : (s.raiseFault c).arch.errCode = if s.arch.phase = .fault then s.arch.errCode else c :=
    by cases s; rfl
@[simp] theorem State.raiseFault_arch_npad (c : ErrCode) : (s.raiseFault c).arch.npad = s.arch.npad := by cases s; rfl
@[simp] theorem State.raiseFault_hidden (c : ErrCode) : (s.raiseFault c).hidden = s.hidden := by cases s; rfl
@[simp] theorem State.raiseFault_busy (c : ErrCode) : (s.raiseFault c).busy = s.busy := by cases s; rfl
@[simp] theorem State.raiseFault_remaining (c : ErrCode) : (s.raiseFault c).remaining = s.remaining := by cases s; rfl
@[simp] theorem State.raiseFault_command (c : ErrCode) : (s.raiseFault c).command = s.command := by cases s; rfl
@[simp] theorem State.raiseFault_inputs (c : ErrCode) : (s.raiseFault c).inputs = s.inputs := by cases s; rfl
@[simp] theorem State.raiseFault_freeIndex (c : ErrCode) : (s.raiseFault c).freeIndex = s.freeIndex := by cases s; rfl
@[simp] theorem State.raiseFault_params (c : ErrCode) : (s.raiseFault c).params = s.params := by cases s; rfl

/-! ### startDigest -/

@[simp] theorem State.startDigest_arch : s.startDigest.arch = Arch.started := rfl
@[simp] theorem State.startDigest_hidden : s.startDigest.hidden = s.hidden := by cases s; rfl
@[simp] theorem State.startDigest_busy : s.startDigest.busy = s.busy := by cases s; rfl
@[simp] theorem State.startDigest_remaining : s.startDigest.remaining = s.remaining := by cases s; rfl
@[simp] theorem State.startDigest_command : s.startDigest.command = s.command := by cases s; rfl
@[simp] theorem State.startDigest_inputs : s.startDigest.inputs = s.inputs := by cases s; rfl
@[simp] theorem State.startDigest_freeIndex : s.startDigest.freeIndex = s.freeIndex := by cases s; rfl
@[simp] theorem State.startDigest_params : s.startDigest.params = s.params := by cases s; rfl

/-! ### select -/

@[simp] theorem State.select_arch (m : MuxSel) : (s.select m).arch = s.arch := by simp [State.select]
@[simp] theorem State.select_hidden_work (m : MuxSel) : (s.select m).hidden.work = s.hidden.work := by simp [State.select]
@[simp] theorem State.select_hidden_w (m : MuxSel) : (s.select m).hidden.w = s.hidden.w := by simp [State.select]
@[simp] theorem State.select_hidden_blkBuf (m : MuxSel) : (s.select m).hidden.blkBuf = s.hidden.blkBuf := by simp [State.select]
@[simp] theorem State.select_hidden_padBuf (m : MuxSel) : (s.select m).hidden.padBuf = s.hidden.padBuf := by simp [State.select]
@[simp] theorem State.select_hidden_muxSel (m : MuxSel) : (s.select m).hidden.muxSel = m := by simp [State.select]
@[simp] theorem State.select_hidden_t (m : MuxSel) : (s.select m).hidden.t = s.hidden.t := by simp [State.select]
@[simp] theorem State.select_busy (m : MuxSel) : (s.select m).busy = s.busy := by simp [State.select]
@[simp] theorem State.select_remaining (m : MuxSel) : (s.select m).remaining = s.remaining := by simp [State.select]
@[simp] theorem State.select_command (m : MuxSel) : (s.select m).command = s.command := by simp [State.select]
@[simp] theorem State.select_inputs (m : MuxSel) : (s.select m).inputs = s.inputs := by simp [State.select]
@[simp] theorem State.select_freeIndex (m : MuxSel) : (s.select m).freeIndex = s.freeIndex := by simp [State.select]
@[simp] theorem State.select_params (m : MuxSel) : (s.select m).params = s.params := by simp [State.select]

/-! ### compressSelected -/

@[simp] theorem State.compressSelected_arch_h : s.compressSelected.arch.h = compress s.arch.h s.hidden.selected := by simp [State.compressSelected]
@[simp] theorem State.compressSelected_arch_phase : s.compressSelected.arch.phase = s.arch.phase := by simp [State.compressSelected]
@[simp] theorem State.compressSelected_arch_byteCount : s.compressSelected.arch.byteCount = s.arch.byteCount := by simp [State.compressSelected]
@[simp] theorem State.compressSelected_arch_errCode : s.compressSelected.arch.errCode = s.arch.errCode := by simp [State.compressSelected]
@[simp] theorem State.compressSelected_arch_npad : s.compressSelected.arch.npad = s.arch.npad := by simp [State.compressSelected]
@[simp] theorem State.compressSelected_hidden_work : s.compressSelected.hidden.work = workAfter s.arch.h s.hidden.selected 80 := by simp [State.compressSelected]
@[simp] theorem State.compressSelected_hidden_w : s.compressSelected.hidden.w = schedule s.hidden.selected := by simp [State.compressSelected]
@[simp] theorem State.compressSelected_hidden_blkBuf : s.compressSelected.hidden.blkBuf = s.hidden.blkBuf := by simp [State.compressSelected]
@[simp] theorem State.compressSelected_hidden_padBuf : s.compressSelected.hidden.padBuf = s.hidden.padBuf := by simp [State.compressSelected]
@[simp] theorem State.compressSelected_hidden_muxSel : s.compressSelected.hidden.muxSel = s.hidden.muxSel := by simp [State.compressSelected]
@[simp] theorem State.compressSelected_hidden_t : s.compressSelected.hidden.t = 79 := by simp [State.compressSelected]
@[simp] theorem State.compressSelected_busy : s.compressSelected.busy = s.busy := by simp [State.compressSelected]
@[simp] theorem State.compressSelected_remaining : s.compressSelected.remaining = s.remaining := by simp [State.compressSelected]
@[simp] theorem State.compressSelected_command : s.compressSelected.command = s.command := by simp [State.compressSelected]
@[simp] theorem State.compressSelected_inputs : s.compressSelected.inputs = s.inputs := by simp [State.compressSelected]
@[simp] theorem State.compressSelected_freeIndex : s.compressSelected.freeIndex = s.freeIndex := by simp [State.compressSelected]
@[simp] theorem State.compressSelected_params : s.compressSelected.params = s.params := by simp [State.compressSelected]

/-! ### countBlock -/

@[simp] theorem State.countBlock_arch_h : s.countBlock.arch.h = s.arch.h := by cases s; rfl
@[simp] theorem State.countBlock_arch_phase : s.countBlock.arch.phase = s.arch.phase := by cases s; rfl
@[simp] theorem State.countBlock_arch_byteCount : s.countBlock.arch.byteCount = s.arch.byteCount + 64 := by cases s; rfl
@[simp] theorem State.countBlock_arch_errCode : s.countBlock.arch.errCode = s.arch.errCode := by cases s; rfl
@[simp] theorem State.countBlock_arch_npad : s.countBlock.arch.npad = s.arch.npad := by cases s; rfl
@[simp] theorem State.countBlock_hidden : s.countBlock.hidden = s.hidden := by cases s; rfl
@[simp] theorem State.countBlock_busy : s.countBlock.busy = s.busy := by cases s; rfl
@[simp] theorem State.countBlock_remaining : s.countBlock.remaining = s.remaining := by cases s; rfl
@[simp] theorem State.countBlock_command : s.countBlock.command = s.command := by cases s; rfl
@[simp] theorem State.countBlock_inputs : s.countBlock.inputs = s.inputs := by cases s; rfl
@[simp] theorem State.countBlock_freeIndex : s.countBlock.freeIndex = s.freeIndex := by cases s; rfl
@[simp] theorem State.countBlock_params : s.countBlock.params = s.params := by cases s; rfl

/-! ### writePad -/

@[simp] theorem State.writePad_arch (p : List Byte) : (s.writePad p).arch = s.arch := by simp [State.writePad]
@[simp] theorem State.writePad_hidden_work (p : List Byte) : (s.writePad p).hidden.work = s.hidden.work := by simp [State.writePad]
@[simp] theorem State.writePad_hidden_w (p : List Byte) : (s.writePad p).hidden.w = s.hidden.w := by simp [State.writePad]
@[simp] theorem State.writePad_hidden_blkBuf (p : List Byte) : (s.writePad p).hidden.blkBuf = s.hidden.blkBuf := by simp [State.writePad]
@[simp] theorem State.writePad_hidden_padBuf (p : List Byte) : (s.writePad p).hidden.padBuf = overwritePad p s.hidden.padBuf := by simp [State.writePad]
@[simp] theorem State.writePad_hidden_muxSel (p : List Byte) : (s.writePad p).hidden.muxSel = s.hidden.muxSel := by simp [State.writePad]
@[simp] theorem State.writePad_hidden_t (p : List Byte) : (s.writePad p).hidden.t = s.hidden.t := by simp [State.writePad]
@[simp] theorem State.writePad_busy (p : List Byte) : (s.writePad p).busy = s.busy := by simp [State.writePad]
@[simp] theorem State.writePad_remaining (p : List Byte) : (s.writePad p).remaining = s.remaining := by simp [State.writePad]
@[simp] theorem State.writePad_command (p : List Byte) : (s.writePad p).command = s.command := by simp [State.writePad]
@[simp] theorem State.writePad_inputs (p : List Byte) : (s.writePad p).inputs = s.inputs := by simp [State.writePad]
@[simp] theorem State.writePad_freeIndex (p : List Byte) : (s.writePad p).freeIndex = s.freeIndex := by simp [State.writePad]
@[simp] theorem State.writePad_params (p : List Byte) : (s.writePad p).params = s.params := by simp [State.writePad]

/-! ### finishDigest -/

@[simp] theorem State.finishDigest_arch_h (n : Nat) : (s.finishDigest n).arch.h = s.arch.h := by cases s; rfl
@[simp] theorem State.finishDigest_arch_phase (n : Nat) : (s.finishDigest n).arch.phase = .done := by cases s; rfl
@[simp] theorem State.finishDigest_arch_byteCount (n : Nat) : (s.finishDigest n).arch.byteCount = s.command.len :=
    by cases s; rfl
@[simp] theorem State.finishDigest_arch_errCode (n : Nat) : (s.finishDigest n).arch.errCode = s.arch.errCode :=
    by cases s; rfl
@[simp] theorem State.finishDigest_arch_npad (n : Nat) : (s.finishDigest n).arch.npad = BitVec.ofNat 2 (n / 64) :=
    by cases s; rfl
@[simp] theorem State.finishDigest_hidden (n : Nat) : (s.finishDigest n).hidden = s.hidden := by cases s; rfl
@[simp] theorem State.finishDigest_busy (n : Nat) : (s.finishDigest n).busy = s.busy := by cases s; rfl
@[simp] theorem State.finishDigest_remaining (n : Nat) : (s.finishDigest n).remaining = s.remaining := by cases s; rfl
@[simp] theorem State.finishDigest_command (n : Nat) : (s.finishDigest n).command = s.command := by cases s; rfl
@[simp] theorem State.finishDigest_inputs (n : Nat) : (s.finishDigest n).inputs = s.inputs := by cases s; rfl
@[simp] theorem State.finishDigest_freeIndex (n : Nat) : (s.finishDigest n).freeIndex = s.freeIndex := by cases s; rfl
@[simp] theorem State.finishDigest_params (n : Nat) : (s.finishDigest n).params = s.params := by cases s; rfl

/-! ### advance -/

@[simp] theorem State.advance_arch : s.advance.arch = s.arch := by cases s; rfl
@[simp] theorem State.advance_hidden : s.advance.hidden = s.hidden := by cases s; rfl
@[simp] theorem State.advance_busy : s.advance.busy = s.busy := by cases s; rfl
@[simp] theorem State.advance_remaining : s.advance.remaining = s.remaining := by cases s; rfl
@[simp] theorem State.advance_command : s.advance.command = s.command := by cases s; rfl
@[simp] theorem State.advance_inputs : s.advance.inputs = s.inputs.tail := by cases s; rfl
@[simp] theorem State.advance_freeIndex : s.advance.freeIndex = s.freeIndex + 1 := by cases s; rfl
@[simp] theorem State.advance_params : s.advance.params = s.params := by cases s; rfl

/-! ### resetEdge -/

@[simp] theorem State.resetEdge_arch : s.resetEdge.arch = Arch.afterReset := by cases s; rfl
@[simp] theorem State.resetEdge_hidden : s.resetEdge.hidden = Hidden.unspecified s.freeIndex := by cases s; rfl
@[simp] theorem State.resetEdge_busy : s.resetEdge.busy = false := by cases s; rfl
@[simp] theorem State.resetEdge_remaining : s.resetEdge.remaining = 0 := by cases s; rfl
@[simp] theorem State.resetEdge_command : s.resetEdge.command = ⟨0, 0, 0⟩ := by cases s; rfl
@[simp] theorem State.resetEdge_inputs : s.resetEdge.inputs = s.inputs := by cases s; rfl
@[simp] theorem State.resetEdge_freeIndex : s.resetEdge.freeIndex = s.freeIndex := by cases s; rfl
@[simp] theorem State.resetEdge_params : s.resetEdge.params = s.params := by cases s; rfl

/-! ### accept -/

@[simp] theorem State.accept_arch (c : Command) (n : Nat) : (s.accept c n).arch = s.arch := by cases s; rfl
@[simp] theorem State.accept_hidden (c : Command) (n : Nat) : (s.accept c n).hidden = s.hidden := by cases s; rfl
@[simp] theorem State.accept_busy (c : Command) (n : Nat) : (s.accept c n).busy = true := by cases s; rfl
@[simp] theorem State.accept_remaining (c : Command) (n : Nat) : (s.accept c n).remaining = n := by cases s; rfl
@[simp] theorem State.accept_command (c : Command) (n : Nat) : (s.accept c n).command = c := by cases s; rfl
@[simp] theorem State.accept_inputs (c : Command) (n : Nat) : (s.accept c n).inputs = s.inputs := by cases s; rfl
@[simp] theorem State.accept_freeIndex (c : Command) (n : Nat) : (s.accept c n).freeIndex = s.freeIndex :=
    by cases s; rfl
@[simp] theorem State.accept_params (c : Command) (n : Nat) : (s.accept c n).params = s.params := by cases s; rfl

/-! ### countDown -/

@[simp] theorem State.countDown_arch : s.countDown.arch = s.arch := by cases s; rfl
@[simp] theorem State.countDown_hidden : s.countDown.hidden = s.hidden := by cases s; rfl
@[simp] theorem State.countDown_busy : s.countDown.busy = s.busy := by cases s; rfl
@[simp] theorem State.countDown_remaining : s.countDown.remaining = s.remaining - 1 := by cases s; rfl
@[simp] theorem State.countDown_command : s.countDown.command = s.command := by cases s; rfl
@[simp] theorem State.countDown_inputs : s.countDown.inputs = s.inputs := by cases s; rfl
@[simp] theorem State.countDown_freeIndex : s.countDown.freeIndex = s.freeIndex := by cases s; rfl
@[simp] theorem State.countDown_params : s.countDown.params = s.params := by cases s; rfl

/-! ### retire -/

@[simp] theorem State.retire_arch : s.retire.arch = s.arch := by cases s; rfl
@[simp] theorem State.retire_hidden : s.retire.hidden = Hidden.unspecified s.freeIndex := by cases s; rfl
@[simp] theorem State.retire_busy : s.retire.busy = false := by cases s; rfl
@[simp] theorem State.retire_remaining : s.retire.remaining = 0 := by cases s; rfl
@[simp] theorem State.retire_command : s.retire.command = s.command := by cases s; rfl
@[simp] theorem State.retire_inputs : s.retire.inputs = s.inputs := by cases s; rfl
@[simp] theorem State.retire_freeIndex : s.retire.freeIndex = s.freeIndex := by cases s; rfl
@[simp] theorem State.retire_params : s.retire.params = s.params := by cases s; rfl

/-! ### The host's view of the next edge -/

@[simp] theorem State.withCommandWord_wires (w : Word32) : (s.withCommandWord w).wires = Wires.idle := by cases s; rfl
@[simp] theorem State.withCommandWord_arch (w : Word32) : (s.withCommandWord w).arch = s.arch := by cases s; rfl
@[simp] theorem State.withCommandWord_hidden (w : Word32) : (s.withCommandWord w).hidden = s.hidden := by cases s; rfl
@[simp] theorem State.withCommandWord_busy (w : Word32) : (s.withCommandWord w).busy = true := by cases s; rfl
@[simp] theorem State.withCommandWord_remaining (w : Word32) : (s.withCommandWord w).remaining = 1 := by cases s; rfl
@[simp] theorem State.withCommandWord_cmdWord (w : Word32) : (s.withCommandWord w).command.cmdWord = w :=
    by cases s; rfl
@[simp] theorem State.withCommandWord_din (w : Word32) : (s.withCommandWord w).command.din = s.command.din :=
    by cases s; rfl
@[simp] theorem State.withCommandWord_len (w : Word32) : (s.withCommandWord w).command.len = s.command.len :=
    by cases s; rfl
@[simp] theorem State.withCommandWord_inputs (w : Word32) : (s.withCommandWord w).inputs = Wires.idle :: s.inputs :=
    by cases s; rfl

/-! ### Registers -/

@[simp] theorem Arch.started_h : Arch.started.h = Acc.iv := rfl
@[simp] theorem Arch.started_phase : Arch.started.phase = .absorb := rfl
@[simp] theorem Arch.started_byteCount : Arch.started.byteCount = 0 := rfl
@[simp] theorem Arch.started_errCode : Arch.started.errCode = .none := rfl
@[simp] theorem Arch.started_npad : Arch.started.npad = 0 := rfl

/-! ### The outcome of a command -/

@[simp] theorem retireResult_next : retireResult (.next s) = .next s.retire := rfl

/-! ### Ports -/

theorem State.statusPort_of_not_busy (h : s.busy = false) :
    s.statusPort = statusWord s.arch.npad (errCodeBits s.arch.errCode) s.digestValid false s.arch.phase.code := by
  simp [State.statusPort, h]

theorem State.digestPort_of_not_busy (h : s.busy = false) : s.digestPort = s.arch.h.bits := by
  simp [State.digestPort, h]

theorem State.countPort_of_not_busy (h : s.busy = false) : s.countPort = s.arch.byteCount := by
  simp [State.countPort, h]

/-- While `busy = 0`, the output ports are functions of the architectural registers. -/
theorem ports_eq_of_arch_eq {s t : State} (hs : s.busy = false) (ht : t.busy = false) (h : t.arch = s.arch) :
    t.statusPort = s.statusPort ∧ t.digestPort = s.digestPort ∧ t.countPort = s.countPort := by
  simp [State.statusPort, State.digestPort, State.countPort, State.digestValid, hs, ht, h]

end Sys2Proof.Machine
end

