-- ==== Sys2Proof/Laws/Commands.lean ====
section
/-! SUPPORT. What each shared operation of a command can do, said once: CHECK, `guarded`, PAD on its domain, and the
three meanings. -/

namespace Sys2Proof.Machine

/-! ### guarded and CHECK -/

theorem guarded_none (s : State) (r : Result) : guarded .none s r = r := rfl

theorem guarded_of_ne {c : ErrCode} (h : c ≠ .none) (s : State) (r : Result) :
    guarded c s r = .next (s.raiseFault c) := by simp [guarded, h]

/-- CHECK passes BLOCK exactly in ABSORB and within the length limit. -/
theorem check_block_eq_none {len : Word64} {a : Arch} :
    check (.ok .block) len a = .none ↔ a.phase = .absorb ∧ a.byteCount.toNat + 64 ≤ maxMsgBytes := by
  by_cases h1 : a.phase = .absorb <;> by_cases h2 : a.byteCount.toNat + 64 > maxMsgBytes <;> simp [check, h1, h2]
  all_goals omega

/-- CHECK passes FINAL(L) exactly in ABSORB with a total length that is in range and agrees. -/
theorem check_final_eq_none {l : Nat} {len : Word64} {a : Arch} :
    check (.ok (.final l)) len a = .none ↔
      a.phase = .absorb ∧ len.toNat ≤ maxMsgBytes ∧ len.toNat = a.byteCount.toNat + l := by
  by_cases h1 : a.phase = .absorb <;> by_cases h2 : len.toNat > maxMsgBytes <;>
    by_cases h3 : len.toNat = a.byteCount.toNat + l <;> simp [check, h1, h2, h3]

/-- The decoder never answers the code NONE. -/
theorem decode_error_ne_none {w : Word32} {c : ErrCode} (h : decode w = .error c) : c ≠ .none := by
  rintro rfl
  unfold decode at h
  repeat' split at h
  all_goals cases h

/-- Every decoded command is well formed: `tl` is six bits. -/
theorem decode_wellFormed {w : Word32} {i : Instr} (h : decode w = .ok i) : i.wellFormed = true := by
  unfold decode at h
  repeat' split at h
  all_goals cases h
  · rfl
  · rfl
  · have := (tlField w).isLt
    simp [Instr.wellFormed]; omega

/-! ### PAD -/

theorem tail_length {l : Nat} (h : l ≤ 63) (blk : Block) : (tail l blk).length = l := by
  simp [tail]; omega

theorem pad_of_domain {t : List Byte} {l m : Nat} (h : PadDomain t l m) :
    pad t l m = .ok (padLength l, (List.range (padLength l)).map (padByte t l m)) := by simp [pad, h]

theorem padLength_cases (l : Nat) : padLength l = 64 ∧ l < 56 ∨ padLength l = 128 ∧ 56 ≤ l := by
  unfold padLength
  split <;> omega

/-! ### The compressions of FINAL -/

theorem State.compressPadding_64 (s : State) :
    s.compressPadding 64 = (s.select .pad0).compressSelected := rfl

theorem State.compressPadding_128 (s : State) :
    s.compressPadding 128 = (((s.select .pad0).compressSelected.select .pad1).compressSelected) := rfl

/-! ### The meanings -/

/-- INIT has one outcome, in every phase. -/
theorem execInit_eq (s : State) : execInit s = .next s.startDigest := rfl

/-- BLOCK either faults or absorbs the block. -/
theorem execBlock_cases (s : State) :
    (check (.ok .block) s.command.len s.arch ≠ .none ∧
      execBlock s = .next (s.raiseFault (check (.ok .block) s.command.len s.arch))) ∨
    (s.arch.phase = .absorb ∧ s.arch.byteCount.toNat + 64 ≤ maxMsgBytes ∧
      execBlock s = .next (s.select .din).compressSelected.countBlock) := by
  by_cases h : check (.ok .block) s.command.len s.arch = .none
  · exact .inr ⟨(check_block_eq_none.1 h).1, (check_block_eq_none.1 h).2, by simp [execBlock, h, guarded_none]⟩
  · exact .inl ⟨h, guarded_of_ne h _ _⟩

/-- A well-formed FINAL either faults, or pads and compresses; PAD never refuses it. -/
theorem execFinal_cases {l : Nat} (hl : l ≤ 63) (s : State) :
    (check (.ok (.final l)) s.command.len s.arch ≠ .none ∧
      execFinal l s = .next (s.raiseFault (check (.ok (.final l)) s.command.len s.arch))) ∨
    (s.arch.phase = .absorb ∧ s.command.len.toNat ≤ maxMsgBytes ∧
      s.command.len.toNat = s.arch.byteCount.toNat + l ∧
      ∃ p, pad (tail l s.hidden.blkBuf) l s.command.len.toNat = .ok (padLength l, p) ∧ p.length = padLength l ∧
        execFinal l s = .next (((s.writePad p).compressPadding (padLength l)).finishDigest (padLength l))) := by
  by_cases h : check (.ok (.final l)) s.command.len s.arch = .none
  · obtain ⟨h1, h2, h3⟩ := check_final_eq_none.1 h
    have hp := pad_of_domain (t := tail l s.hidden.blkBuf) ⟨tail_length hl _, hl, h2⟩
    refine .inr ⟨h1, h2, h3, _, hp, by simp, ?_⟩
    simp [execFinal, h, guarded_none, finalEffect, State.totalLength, hp]
  · exact .inl ⟨h, guarded_of_ne h _ _⟩

/-- What FINAL's compressions leave alone, for either padding count. -/
theorem State.compressPadding_frame (n : Nat) (s : State) :
    (s.compressPadding n).arch.phase = s.arch.phase ∧ (s.compressPadding n).arch.byteCount = s.arch.byteCount ∧
    (s.compressPadding n).arch.errCode = s.arch.errCode ∧ (s.compressPadding n).arch.npad = s.arch.npad ∧
    (s.compressPadding n).hidden.blkBuf = s.hidden.blkBuf ∧ (s.compressPadding n).hidden.padBuf = s.hidden.padBuf ∧
    (s.compressPadding n).busy = s.busy ∧ (s.compressPadding n).remaining = s.remaining ∧
    (s.compressPadding n).command = s.command ∧ (s.compressPadding n).inputs = s.inputs ∧
    (s.compressPadding n).freeIndex = s.freeIndex ∧ (s.compressPadding n).params = s.params := by
  unfold State.compressPadding
  split <;> simp

end Sys2Proof.Machine
end

