-- ==== Sys2Proof/Laws/Compress.lean ====
section
/-! SUPPORT. The schedule and the rounds by index: what `expand` keeps and adds, and `workAfter` round by round. -/

namespace Sys2Proof.Machine

/-- Word j of packed bytes. -/
theorem packWords_getElem? (j : Nat) (bs : List Byte) (h : 4 * j + 3 < bs.length) :
    (packWords bs)[j]? = some (bigEndian bs[4 * j] bs[4 * j + 1] bs[4 * j + 2] bs[4 * j + 3]) := by
  induction j generalizing bs with
  | zero => match bs, h with | b0 :: b1 :: b2 :: b3 :: bs, h => rfl
  | succ j ih =>
    match bs, h with
    | b0 :: b1 :: b2 :: b3 :: bs, h =>
      rw [packWords, List.getElem?_cons_succ, ih bs (by simp at h; omega)]
      rfl

/-- `expand` keeps the words it has. -/
theorem expand_getElem? (n : Nat) (ws : List Word32) (i : Nat) (h : i < ws.length) : (expand n ws)[i]? = ws[i]? := by
  induction n generalizing ws with
  | zero => rw [expand]
  | succ n ih =>
    rw [expand, ih _ (by simp; omega), List.getElem?_append_left h]

/-- Splitting an expansion: the first `k` words more, then the rest. -/
theorem expand_add (k n : Nat) (ws : List Word32) : expand (k + n) ws = expand n (expand k ws) := by
  induction k generalizing ws with
  | zero => simp [expand]
  | succ k ih => rw [Nat.succ_add, expand, expand, ih]

/-- The last word `expand` adds. -/
theorem expand_succ (n : Nat) (ws : List Word32) : expand (n + 1) ws = expand n ws ++ [nextWord (expand n ws)] := by
  rw [expand_add n 1, expand, expand]

theorem schedule_toList (b : Block) : (schedule b).toList = expand 64 (packedWords b) := by
  simp [schedule, Vector.toList]

/-- The first words of the schedule are those of any shorter expansion. -/
theorem schedule_getElem?_of_le (b : Block) {k i : Nat} (hk : k ≤ 64) (hi : i < 16 + k) :
    (schedule b).toList[i]? = (expand k (packedWords b))[i]? := by
  have h64 : expand 64 (packedWords b) = expand (64 - k) (expand k (packedWords b)) := by
    rw [← expand_add, Nat.add_sub_cancel' hk]
  rw [schedule_toList, h64]
  exact expand_getElem? _ _ _ (by simp [expand_length, packedWords_length]; omega)

/-- Rounds on a list and one more word. -/
theorem rounds_append (t : Nat) (ws : List Word32) (w : Word32) (v : Work) :
    rounds t (ws ++ [w]) v = round (t + ws.length) w (rounds t ws v) := by
  induction ws generalizing t v with
  | nil => rfl
  | cons x ws ih =>
    simp only [List.cons_append, rounds, ih, List.length_cons]
    congr 1
    omega

theorem workAfter_zero (h : Acc) (b : Block) : workAfter h b 0 = h.toWork := by simp [workAfter, rounds]

/-- One more round, on W[n]. -/
theorem workAfter_succ (h : Acc) (b : Block) {n : Nat} (hn : n < 80) :
    workAfter h b (n + 1) = round n (schedule b)[n] (workAfter h b n) := by
  have hl : n < (schedule b).toList.length := by rw [Vector.length_toList]; exact hn
  have ht : (schedule b).toList.take (n + 1) = (schedule b).toList.take n ++ [(schedule b)[n]] := by
    rw [List.take_succ_eq_append_getElem hl, Vector.getElem_toList]
  have h0 : 0 + ((schedule b).toList.take n).length = n := by rw [List.length_take]; omega
  rw [workAfter, ht, rounds_append, h0, workAfter]

end Sys2Proof.Machine
end

