-- ==== Sys2Proof/Laws/Step.lean ====
section
/-! SUPPORT. What one clock edge can do, said once: the four kinds of edge that are no command's completion, and the
completing edge. -/

namespace Sys2Proof.Machine

/-- Every edge is one of these. -/
theorem step_cases (s : State) :
    (s.wires.rst = true ∧ step s = .next s.advance.resetEdge) ∨
    (s.wires.rst = false ∧ s.busy = true ∧ s.remaining ≤ 1 ∧ step s = complete s.advance) ∨
    (s.wires.rst = false ∧ s.busy = true ∧ 1 < s.remaining ∧ step s = .next s.advance.countDown) ∨
    (s.wires.rst = false ∧ s.busy = false ∧ s.wires.cmdValid = true ∧
      step s = .next (s.advance.accept s.wires.command (latency s.wires.command s.arch s.params))) ∨
    (s.wires.rst = false ∧ s.busy = false ∧ s.wires.cmdValid = false ∧ step s = .next s.advance) := by
  cases h1 : s.wires.rst
  · cases h2 : s.busy
    · cases h3 : s.wires.cmdValid <;> simp [step, clockEdge, h1, h2, h3]
    · by_cases h3 : s.remaining ≤ 1
      · simp [step, clockEdge, h1, h2, h3]
      · simp [step, clockEdge, h1, h2, h3]; omega
  · simp [step, clockEdge, h1]

/-- EXECUTE by what the sampled word decodes to. -/
theorem execute_cases (s : State) :
    (∃ c, decode s.command.cmdWord = .error c ∧ c ≠ .none ∧ execute s = .next (s.loadBlkBuf.raiseFault c)) ∨
    (∃ i, decode s.command.cmdWord = .ok i ∧ i.wellFormed = true ∧ execute s = exec i s.loadBlkBuf) := by
  cases h : decode s.command.cmdWord with
  | error c => exact .inl ⟨c, rfl, decode_error_ne_none h, by simp [execute, h]⟩
  | ok i => exact .inr ⟨i, rfl, decode_wellFormed h, by simp [execute, h]⟩

/-- If EXECUTE answers a next state, completing answers its retirement. -/
theorem complete_of_execute {s t : State} (h : execute s = .next t) : complete s = .next t.retire := by
  simp [complete, h]

end Sys2Proof.Machine
end

