-- ==== Sys2Proof/Laws/Execute.lean ====
section
/-! SUPPORT. A command's effect on the architectural registers, as a function of the sampled command and those registers
alone; and that EXECUTE has that effect and leaves everything around a command alone. Later proofs cite these and unfold
neither EXECUTE nor the meanings. -/

namespace Sys2Proof.Machine

/-- The padding bytes FINAL(L) makes from a sampled command. -/
def finalPadding (l : Nat) (c : Command) : List Byte :=
  (List.range (padLength l)).map (padByte (tail l (laneBlock c.din)) l c.len.toNat)

/-- H after the one or two padding blocks of FINAL(L). -/
def finalAcc (l : Nat) (c : Command) (h : Acc) : Acc :=
  if padLength l = 128 then compress (compress h (blockAt (finalPadding l c) 0)) (blockAt (finalPadding l c) 1)
  else compress h (blockAt (finalPadding l c) 0)

/-- The registers after a command that passes its checks. -/
def effectArch (i : Instr) (c : Command) (a : Arch) : Arch :=
  match i with
  | .init => Arch.started
  | .block => { a with h := compress a.h (laneBlock c.din), byteCount := a.byteCount + 64 }
  | .final l =>
    { a with
      h := finalAcc l c a.h, npad := BitVec.ofNat 2 (padLength l / 64), byteCount := c.len, phase := .done }

/-- The registers after a sampled command, faults included. -/
def archAfter (c : Command) (a : Arch) : Arch :=
  if check (decode c.cmdWord) c.len a = .none then
    match decode c.cmdWord with
    | .ok i => effectArch i c a
    | .error _ => a
  else a.raiseFault (check (decode c.cmdWord) c.len a)

/-- The compressions of FINAL, on a padding buffer just written. -/
theorem compressPadding_h {l : Nat} {p : List Byte} (hp : p.length = padLength l) (s : State) :
    ((s.writePad p).compressPadding (padLength l)).arch.h =
      if padLength l = 128 then compress (compress s.arch.h (blockAt p 0)) (blockAt p 1)
      else compress s.arch.h (blockAt p 0) := by
  rcases padLength_cases l with ⟨h0, -⟩ | ⟨h0, -⟩
  · rw [h0, State.compressPadding_64]
    simp [Hidden.selected, padBlock_overwritePad_zero (by omega : 64 ≤ p.length)]
  · rw [h0, State.compressPadding_128]
    simp [Hidden.selected, padBlock_overwritePad_zero (by omega : 64 ≤ p.length),
      padBlock_overwritePad_one (by omega : 128 ≤ p.length)]

/-- A well-formed command on loaded operands: the next state's registers, and what it leaves alone. -/
theorem exec_summary {i : Instr} (hi : i.wellFormed = true) (s : State)
    (hb : s.hidden.blkBuf = laneBlock s.command.din) :
    ∃ t, exec i s = .next t ∧
      t.arch = (if check (.ok i) s.command.len s.arch = .none then effectArch i s.command s.arch
        else s.arch.raiseFault (check (.ok i) s.command.len s.arch)) ∧
      t.hidden.blkBuf = s.hidden.blkBuf ∧ t.busy = s.busy ∧ t.remaining = s.remaining ∧ t.command = s.command ∧
      t.inputs = s.inputs ∧ t.freeIndex = s.freeIndex ∧ t.params = s.params := by
  cases i with
  | init => exact ⟨_, execInit_eq s, by simp [check, effectArch]⟩
  | block =>
    rcases execBlock_cases s with ⟨h, e⟩ | ⟨h1, h2, e⟩
    · exact ⟨_, e, by rw [if_neg h]; simp [State.raiseFault]⟩
    · refine ⟨_, e, ?_, by simp⟩
      rw [if_pos (check_block_eq_none.2 ⟨h1, h2⟩)]
      simp only [effectArch, ← hb]
      rfl
  | final l =>
    rcases execFinal_cases (l := l) (by simpa [Instr.wellFormed] using hi) s with ⟨h, e⟩ | ⟨h1, h2, h3, p, hp, hpl, e⟩
    · exact ⟨_, e, by rw [if_neg h]; simp [State.raiseFault]⟩
    · have hf := State.compressPadding_frame (padLength l) (s.writePad p)
      have hh := compressPadding_h hpl s
      have hpp : p = finalPadding l s.command := by
        rw [hb, pad_of_domain ⟨tail_length (by simpa [Instr.wellFormed] using hi) _,
          by simpa [Instr.wellFormed] using hi, h2⟩] at hp
        simp only [Except.ok.injEq, Prod.mk.injEq, true_and] at hp
        exact hp.symm
      rw [hpp] at hh hf e
      refine ⟨_, e, ?_, by simp [hf]⟩
      rw [if_pos (check_final_eq_none.2 ⟨h1, h2, h3⟩)]
      simp only [effectArch, finalAcc, ← hh]
      simp [State.finishDigest, hf]

/-- EXECUTE: the next state's registers are `archAfter` of the sampled command, and all around it is left alone. -/
theorem execute_summary (s : State) :
    ∃ t, execute s = .next t ∧ t.arch = archAfter s.command s.arch ∧ t.busy = s.busy ∧ t.remaining = s.remaining ∧
      t.command = s.command ∧ t.inputs = s.inputs ∧ t.freeIndex = s.freeIndex ∧ t.params = s.params := by
  rcases execute_cases s with ⟨c, hd, hc, e⟩ | ⟨i, hd, hw, e⟩
  · exact ⟨_, e, by simp [archAfter, hd, check, hc, State.raiseFault]⟩
  · obtain ⟨t, h, ha, -, hrest⟩ := exec_summary hw s.loadBlkBuf (by simp)
    exact ⟨t, e.trans h, by simpa [archAfter, hd] using ha, by simpa using hrest⟩

/-- Completing a command: `archAfter`, `busy` at 0, and the hidden registers unspecified. -/
theorem complete_summary (s : State) :
    ∃ t, complete s = .next t ∧ t.arch = archAfter s.command s.arch ∧ t.busy = false ∧ t.remaining = 0 ∧
      t.hidden = Hidden.unspecified s.freeIndex ∧ t.command = s.command ∧ t.inputs = s.inputs ∧
      t.freeIndex = s.freeIndex ∧ t.params = s.params := by
  obtain ⟨t, h, ha, -, -, hc, hi, hf, hp⟩ := execute_summary s
  exact ⟨_, complete_of_execute h, by simp [ha, hf, hc, hi, hp]⟩

end Sys2Proof.Machine
end

