-- ==== Sys2Proof/Laws/Lanes.lean ====
section
/-! SUPPORT. Packing bytes into the lanes of `din` and reading them back. -/

namespace Sys2Proof.Machine

/-- The bytes folded so far, read as one big-endian number. -/
theorem fold_lanes_split (f : Nat → Nat) (hf : ∀ k, f k < 256) (n k : Nat) (hk : k < n) :
    (List.range n).foldl (fun v j => v * 256 + f j) 0 / 256 ^ (n - 1 - k) % 256 = f k := by
  induction n with
  | zero => omega
  | succ n ih =>
    rw [List.range_succ, List.foldl_append]
    simp only [List.foldl_cons, List.foldl_nil]
    rcases Nat.lt_succ_iff_lt_or_eq.1 hk with h | rfl
    · have e : n + 1 - 1 - k = (n - 1 - k) + 1 := by omega
      rw [e, Nat.pow_succ', ← Nat.div_div_eq_div_mul]
      have : ((List.range n).foldl (fun v j => v * 256 + f j) 0 * 256 + f n) / 256 =
          (List.range n).foldl (fun v j => v * 256 + f j) 0 := by have := hf n; omega
      rw [this, ih h]
    · simp only [Nat.add_sub_cancel, Nat.sub_self, Nat.pow_zero, Nat.div_one]
      have := hf k; omega

theorem fold_lanes_lt (f : Nat → Nat) (hf : ∀ k, f k < 256) (n : Nat) :
    (List.range n).foldl (fun v j => v * 256 + f j) 0 < 256 ^ n := by
  induction n with
  | zero => simp
  | succ n ih =>
    rw [List.range_succ, List.foldl_append]
    simp only [List.foldl_cons, List.foldl_nil, Nat.pow_succ]
    have := hf n; omega

set_option exponentiation.threshold 512 in
/-- Lane k of packed bytes is byte k, and zero past the last. -/
theorem laneByte_packLanes (bytes : List Byte) {k : Nat} (hk : k < 64) :
    laneByte (packLanes bytes) k = bytes.getD k 0 := by
  have hf : ∀ j, (bytes.getD j 0).toNat < 256 := fun j => (bytes.getD j 0).isLt
  have hlt := fold_lanes_lt (fun j => (bytes.getD j 0).toNat) hf 64
  have hsp := fold_lanes_split (fun j => (bytes.getD j 0).toNat) hf 64 k hk
  have e : (256 : Nat) ^ 64 = 2 ^ 512 := by
    rw [show (256 : Nat) = 2 ^ 8 from rfl, ← Nat.pow_mul]
  rw [e] at hlt
  apply BitVec.eq_of_toNat_eq
  rw [laneByte, packLanes, BitVec.extractLsb'_toNat, BitVec.toNat_ofNat, Nat.mod_eq_of_lt hlt,
    Nat.shiftRight_eq_div_pow, show 504 - 8 * k = 8 * (64 - 1 - k) by omega, Nat.pow_mul]
  exact hsp

/-- A block is the 64 lanes of its packing. -/
theorem laneBlock_packLanes (bytes : List Byte) (k : Nat) (hk : k < 64) :
    (laneBlock (packLanes bytes))[k] = bytes.getD k 0 := by
  rw [laneBlock_getElem, laneByte_packLanes bytes hk]

end Sys2Proof.Machine
end

