-- ==== Sys2Proof/Laws/PerInstr.lean ====
section
/-! SUPPORT. A statement made for every command, one lemma per constructor: the word of a well-formed command matches its
own row of the opcode map (30_encoding.md R72). -/

namespace Sys2Proof.Laws.RowMatch

/-- `(w & mask) = match` for the command's own row. -/
def Statement (i : Instr) : Prop := i.wellFormed = true → encode i &&& i.rowMask = i.rowMatch

theorem init : Statement .init := fun _ => by decide

theorem block : Statement .block := fun _ => by decide

theorem final (l : Nat) : Statement (.final l) := fun h => by
  have : l ≤ 63 := by simpa [Instr.wellFormed] using h
  interval_cases l <;> decide

end Sys2Proof.Laws.RowMatch
end

