-- ==== Sys2Proof/Tests/Slice0.lean ====
section
/-! SUPPORT. Tests: expected values come from spec/ (30_encoding.md's fields, the vectors of 95_test_vectors.md, each
named where it is used) and never from the model. Then, for every obligation with hypotheses, a witness that meets all of
them (`witness_<name>`). -/

namespace Sys2Proof.Tests

open Sys2Proof Sys2Proof.Machine

/-! ## Helpers -/

/-- The state an outcome goes on to. -/
def nextOf : Result → Option State
  | .next s => some s
  | .fault _ => none
  | .refused _ => none

/-- The registers an outcome leaves. -/
def archOf (r : Result) : Option Arch := (nextOf r).map State.arch

/-- The status word an outcome leaves. -/
def statusOf (r : Result) : Option Word32 := (nextOf r).map State.statusPort

/-- 'a' × n, as vectors write it. -/
def letters (n : Nat) : List Byte := List.replicate n 0x61

/-- Registers in a phase with a count, H = IV. -/
def regs (p : Phase) (count : Word64) : Arch := ⟨Acc.iv, p, count, .none, 0⟩

/-- A small state: given registers, no command in progress, an idle host. -/
def small (a : Arch) : State := { State.reset with arch := a }

/-- A small state with a command in progress, `n` edges before its completion. -/
def inProgress (a : Arch) (c : Command) (n : Nat) : State :=
  { State.reset with arch := a, command := c, busy := true, remaining := n }

/-- A small state whose sampled command is `c`, its operands loaded: what a meaning runs on. -/
def loaded (a : Arch) (c : Command) : State := ({ small a with command := c } : State).loadBlkBuf

/-- A state with given wires at the coming edge. -/
def wired (s : State) (w : Wires) : State := { s with inputs := [w] }

/-- The wires of a reset edge that also presents an `INIT`. -/
def resetWires : Wires := ⟨true, true, 0x00000001#32, 0, 0⟩

/-- A command word with no operands. -/
def word (w : Word32) : Command := ⟨w, 0, 0⟩

/-! ## WellFormed -/

theorem test_wellFormed_final_63 : (Instr.final 63).wellFormed = true := by decide

/-- The one check: a tail length of 64 is not encodable (30_encoding.md R75). -/
theorem test_wellFormed_refuses_final_64 : (Instr.final 64).wellFormed = false := by decide

/-! ## Decoding words written out from the fields of 30_encoding.md R70: rsv1, tl, rsv0, op -/

theorem test_decode_init : decode (0b000000000000000000#18 ++ 0b000000#6 ++ 0b0000#4 ++ 0b0001#4) = .ok .init := by decide

theorem test_decode_block : decode (0b000000000000000000#18 ++ 0b000000#6 ++ 0b0000#4 ++ 0b0010#4) = .ok .block := by decide

theorem test_decode_final :
    decode (0b000000000000000000#18 ++ 0b100110#6 ++ 0b0000#4 ++ 0b0011#4) = .ok (.final 38) := by decide

theorem test_encode :
    encode .init = 0b00000000000000000000000000000001#32 ∧ encode .block = 0b00000000000000000000000000000010#32 ∧
    encode (.final 38) = 0b00000000000000000010011000000011#32 := by decide

/-- V-DEC-10, V-DEC-13, V-DEC-16. -/
theorem test_decode_reserved :
    decode 0x0000000F#32 = .error .illegalOp ∧ decode 0x00000012#32 = .error .reservedBits ∧
    decode 0x80000003#32 = .error .reservedBits := by decide

theorem test_decodeTableWord :
    decodeTableWord 32 1 = some .init ∧ decodeTableWord 32 2 = some .block ∧
    decodeTableWord 32 0x3F03 = some (.final 63) ∧ decodeTableWord 32 0 = none := by decide

/-! ## ROTL32 and the mixing functions -/

/-- V-ROT-1, V-ROT-5, V-ROT-6, V-ROT-12, V-ROT-14. -/
theorem test_rotl32 :
    rotl32 0x80000001#32 1 = .ok 0x00000003#32 ∧ rotl32 0x12345678#32 5 = .ok 0x468ACF02#32 ∧
    rotl32 0x12345678#32 30 = .ok 0x048D159E#32 ∧ rotl32 0x00000001#32 31 = .ok 0x80000000#32 ∧
    rotl32 0x12345678#32 0 = .error (.rotateAmount 0) := by decide

/-- V-F-1, with the constants of 42_compressor.md R134. -/
theorem test_roundFn :
    roundFn 19 0xFFFF0000#32 0x12345678#32 0x9ABCDEF0#32 = (0x1234DEF0#32, 0x5A827999#32) ∧
    roundFn 20 0xFFFF0000#32 0x12345678#32 0x9ABCDEF0#32 = (0x77778888#32, 0x6ED9EBA1#32) ∧
    roundFn 59 0xFFFF0000#32 0x12345678#32 0x9ABCDEF0#32 = (0x9ABC5670#32, 0x8F1BBCDC#32) ∧
    roundFn 60 0xFFFF0000#32 0x12345678#32 0x9ABCDEF0#32 = (0x77778888#32, 0xCA62C1D6#32) := by decide

/-! ## PAD -/

/-- V-PAD-3. -/
theorem test_pad_abc :
    pad [0x61, 0x62, 0x63] 3 3 =
      .ok (64, [0x61, 0x62, 0x63, 0x80] ++ List.replicate 52 0 ++ [0, 0, 0, 0, 0, 0, 0, 0x18]) := by decide +kernel

/-- V-PAD-10. -/
theorem test_pad_longest :
    pad (letters 63) 63 (2 ^ 61 - 1) =
      .ok (128, letters 63 ++ [0x80] ++ List.replicate 56 0 ++ List.replicate 7 0xFF ++ [0xF8]) := by decide +kernel

/-! ## COMPRESS -/

/-- 95_test_vectors.md section 4.1, B = bytes 00 01 .. 3F. -/
theorem test_schedule :
    let w := (schedule (Vector.ofFn fun i => BitVec.ofNat 8 i.val)).toList
    w[3]? = some 0x0C0D0E0F#32 ∧ w[16]? = some 0x38383838#32 ∧ w[79]? = some 0xC47818A4#32 := by decide +kernel

/-- V-CMP-2: the constants alone. -/
theorem test_compress_zero :
    compress ⟨0, 0, 0, 0, 0⟩ (Vector.replicate 64 0) =
      ⟨0x9E1547ED#32, 0x57EC91C2#32, 0x30FA8BC8#32, 0xC7785A54#32, 0xA7EFA5E3#32⟩ := by decide +kernel

/-! ## Commands -/

/-- V-CMD-1, and V-FLT-3. -/
theorem test_init :
    statusOf (transact Command.init State.reset) = some 0x00000001#32 ∧
    archOf (exec .init (small { regs .fault 64 with errCode := .lenMismatch, npad := 2 })) = some (regs .absorb 0) := by
  decide +kernel

/-- V-CMD-2 (V-CMP-6). -/
theorem test_block :
    archOf (exec .block (loaded (regs .absorb 0) (Command.block (letters 64)))) =
      some ⟨⟨0xDA4968EB#32, 0x2E377C1F#32, 0x884E8F52#32, 0x83524BEB#32, 0xE74EBDBD#32⟩, .absorb, 64, .none, 0⟩ := by
  decide +kernel

/-- V-CMD-4: the digest of "abc" (S2); the bytes of DIN past the tail are not read. -/
theorem test_final_one_block :
    archOf (exec (.final 3) (loaded (regs .absorb 0) (Command.final 3 3 [0x61, 0x62, 0x63, 0xFF]))) =
      some ⟨⟨0xA9993E36#32, 0x4706816A#32, 0xBA3E2571#32, 0x7850C26C#32, 0x9CD0D89D#32⟩, .done, 3, .none, 1⟩ := by
  decide +kernel

/-- Program P6, command 3: two padding blocks after a block. -/
theorem test_final_two_blocks :
    archOf (exec (.final 56) (loaded
      ⟨⟨0xDA4968EB#32, 0x2E377C1F#32, 0x884E8F52#32, 0x83524BEB#32, 0xE74EBDBD#32⟩, .absorb, 64, .none, 0⟩
      (Command.final 56 120 (letters 56)))) =
      some ⟨⟨0xF34C1488#32, 0x385346A5#32, 0x5709BA05#32, 0x6DDD0828#32, 0x0DD4C6D6#32⟩, .done, 120, .none, 2⟩ := by
  decide +kernel

/-- V-ERR-2, V-ERR-5, V-ERR-8, V-ERR-13, and V-FLT-1: the codes 1, 3, 4, 5, and the first code kept. -/
theorem test_faults :
    statusOf (transact (word 0x80000005#32) (small (regs .absorb 0))) = some 0x00000013#32 ∧
    statusOf (transact (Command.block (letters 64)) State.reset) = some 0x00000033#32 ∧
    statusOf (transact (Command.final 0 (2 ^ 61) []) (small (regs .absorb 0))) = some 0x00000043#32 ∧
    statusOf (transact (Command.final 0 1 []) (small (regs .absorb 0))) = some 0x00000053#32 ∧
    statusOf (transact (word 0x00000002#32) (small { regs .fault 0 with errCode := .lenMismatch })) =
      some 0x00000053#32 := by decide +kernel

/-- V-LIM-2 and V-LIM-5. -/
theorem test_limits :
    archOf (exec .block (small (regs .absorb 0x1FFFFFFFFFFFFFC0#64))) =
      some { regs .fault 0x1FFFFFFFFFFFFFC0#64 with errCode := .lenRange } ∧
    archOf (exec (.final 63) { small (regs .absorb 0x1FFFFFFFFFFFFFC0#64) with
      command := ⟨0x00003F03#32, 0, 0x200000000000003F#64⟩ }) =
      some { regs .fault 0x1FFFFFFFFFFFFFC0#64 with errCode := .lenRange } := by decide +kernel

/-! ## The clock edge -/

/-- 70_reset_and_hazards.md R236 for LAT_INIT = 1: accepted at one edge, complete after the next. -/
theorem test_edge_accept_and_complete :
    (nextOf (core.run 1 (wired State.reset Command.init.present))).map State.busy = some true ∧
    (nextOf (core.run 2 (wired State.reset Command.init.present))).map (fun t => (t.busy, t.arch)) =
      some (false, regs .absorb 0) := by decide +kernel

/-- V-FLT-5: reset aborts a command in progress. -/
theorem test_edge_reset :
    (nextOf (step (wired (inProgress (regs .absorb 64) Command.init 1) resetWires))).map (fun t => (t.busy, t.arch)) =
      some (false, Arch.afterReset) := by decide +kernel

/-- The placed word is what the next step runs. -/
theorem test_withFetchWord :
    archOf (step (State.reset.withFetchWord 32 0x00000001)) = some (regs .absorb 0) := by decide +kernel

/-! ## The assembler -/

/-- 30_encoding.md R79 and R80: a `RAW` line with no bytes, and a `HASH` line. -/
theorem test_assembleText_raw_hash :
    assembleText "RAW 0x80000005, 7".toList = some [⟨0x80000005#32, 0, 7⟩] ∧
    assembleText "HASH 616263".toList = some [⟨0x00000001#32, 0, 0⟩, ⟨0x00000303#32, 0x616263#24 ++ 0#488, 3⟩] := by
  decide +kernel

/-- 30_encoding.md R79: a line of text, and a rejected one. -/
theorem test_assembleText :
    assembleText ("FINAL 3, 3, ".toList ++ ['"', 'a', 'b', 'c', '"'] ++ " ; done".toList) =
      some [⟨0x00000303#32, 0x616263#24 ++ 0#488, 3⟩] ∧
    assembleText "FINAL 64, 64".toList = none := by decide +kernel

/-! ## Witnesses: concrete inputs that meet a statement's hypotheses, each clause at a boundary value -/

theorem witness_ResetEdgeGivesResetValues :
    (wired (inProgress (regs .done 3) Command.init 5) resetWires).wires.rst = true := by decide

theorem witness_ResetStateValues : State.reset = State.resetWith ⟨1, 1, 1, 1, 1⟩ := rfl

theorem witness_ResetAbortsWithoutTrace :
    let s := wired (inProgress (regs .absorb 64) Command.init 1) resetWires
    let s' := wired (small (regs .done 3)) resetWires
    s.wires.rst = true ∧ s'.inputs = s.inputs ∧ s'.params = s.params ∧ s'.freeIndex = s.freeIndex ∧ s.arch ≠ s'.arch := by
  decide +kernel

theorem witness_IdleEdgeChangesNothing :
    let s := small (regs .absorb 64)
    s.wires.rst = false ∧ s.busy = false ∧ s.wires.cmdValid = false := by decide

theorem witness_AcceptingEdgeSamples :
    let s := wired (small (regs .absorb 64)) (Command.block (letters 64)).present
    s.cmdReady = true ∧ s.wires.cmdValid = true := by decide +kernel

theorem witness_AcceptedExactlyWhenValidAndReady :
    ∃ t u, step (wired State.reset Command.init.present) = .next t ∧ step State.reset = .next u := ⟨_, _, rfl, rfl⟩

theorem witness_InputsIgnoredWhileBusy :
    let s := inProgress (regs .absorb 0) Command.init 2
    s.busy = true ∧ Wires.idle.rst = false ∧ Command.init.present.rst = false ∧ Wires.idle ≠ Command.init.present := by
  decide

theorem witness_StatusWordFields :
    (inProgress (regs .absorb 0) Command.init 1).busy = true ∧
    (small ⟨Acc.iv, .fault, 0, .lenMismatch, 2⟩).busy = false ∧ (small (regs .done 0)).busy = false := by decide

theorem witness_DigestAndCountPorts : (small (regs .done 0xFFFFFFFFFFFFFFFF#64)).busy = false := by decide

theorem witness_DigestByteOrder : 3 < 4 ∧ 19 < 20 := by decide

theorem witness_DinLanes : 63 < 64 ∧ 15 < 16 := by decide

/-- Each row of the latency table, a reset edge, and a `BLOCK` of latency 3: with no wires after its own, and with wires that
present an `INIT` meanwhile and reset after its completion. -/
theorem witness_CommandCompletesAfterLatency :
    let a := regs .absorb 0
    check (decode 0x00000002#32) 0 State.reset.arch ≠ .none ∧
    (check (decode 0x00000001#32) 0 a = .none ∧ decode 0x00000001#32 = .ok .init) ∧
    (check (decode 0x00000002#32) 0 a = .none ∧ decode 0x00000002#32 = .ok .block) ∧
    (check (decode 0x00003703#32) 55 a = .none ∧ decode 0x00003703#32 = .ok (.final 55) ∧ padLength 55 = 64) ∧
    (check (decode 0x00003803#32) 56 a = .none ∧ decode 0x00003803#32 = .ok (.final 56) ∧ padLength 56 = 128) ∧
    (wired (small a) resetWires).wires.rst = true ∧
    let c := word 0x00000002#32
    let s : State := { small a with params := ⟨1, 3, 1, 1, 1⟩, inputs := [c.present] }
    let ws := [Command.init.present, Wires.idle, Wires.idle, resetWires]
    let s' : State := { s with inputs := c.present :: ws }
    s.params.WellFormed ∧ s.busy = false ∧ c.present.rst = false ∧ c.present.cmdValid = true ∧
      3 = latency c.present.command s.arch s.params ∧ 1 ≤ 3 ∧ s.inputs = c.present :: [] ∧
      (∀ j, j < 3 → (([] : List Wires).getD j Wires.idle).rst = false) ∧
      s'.inputs = c.present :: ws ∧ 3 = latency c.present.command s'.arch s'.params ∧
      (∀ j, j < 3 → (ws.getD j Wires.idle).rst = false) := by decide +kernel

theorem witness_DecodeOfEncode :
    (Instr.final 63).wellFormed = true ∧ Instr.init.wellFormed = true ∧ Instr.block.wellFormed = true := by decide

theorem witness_EncodeOfDecode : decode 0x00003F03#32 = .ok (.final 63) := by decide

theorem witness_DecodeByMaskAndMatch : decode 0x00003F03#32 = .ok (.final 63) := by decide

/-- One word for each clause. -/
theorem witness_DecoderReadsFields :
    ((0x00000011#32 : Word32).extractLsb' 0 4 = 1#4 ∧ (0x00000011#32 : Word32).extractLsb' 4 28 ≠ 0) ∧
    ((0x00000001#32 : Word32).extractLsb' 0 4 = 1#4 ∧ (0x00000001#32 : Word32).extractLsb' 4 28 = 0) ∧
    ((0x80000002#32 : Word32).extractLsb' 0 4 = 2#4 ∧ (0x80000002#32 : Word32).extractLsb' 4 28 ≠ 0) ∧
    ((0x00000002#32 : Word32).extractLsb' 0 4 = 2#4 ∧ (0x00000002#32 : Word32).extractLsb' 4 28 = 0) ∧
    ((0x00004003#32 : Word32).extractLsb' 0 4 = 3#4 ∧ (0x00004003#32 : Word32).extractLsb' 14 18 ≠ 0) ∧
    ((0x00000083#32 : Word32).extractLsb' 0 4 = 3#4 ∧ (0x00000083#32 : Word32).extractLsb' 4 4 ≠ 0) ∧
    ((0x00003F03#32 : Word32).extractLsb' 0 4 = 3#4 ∧ (0x00003F03#32 : Word32).extractLsb' 14 18 = 0 ∧
      (0x00003F03#32 : Word32).extractLsb' 4 4 = 0) ∧
    (0xFFFFFFF0#32 : Word32).extractLsb' 0 4 = 0#4 ∧ 4#4 ≤ (0xFFFFFFF4#32 : Word32).extractLsb' 0 4 ∧
    4#4 ≤ (0x0000000F#32 : Word32).extractLsb' 0 4 := by decide

theorem witness_CompletingEdgeRunsDecodedCommand :
    let s := inProgress (regs .absorb 0) (word 0x00003F03#32) 1
    s.wires.rst = false ∧ s.busy = true ∧ s.remaining ≤ 1 ∧ decode s.command.cmdWord = .ok (.final 63) := by decide

theorem witness_FetchWordRunsNext : decodeTableWord 32 0x3F03 = some (.final 63) := by decide

theorem witness_ExecuteChecksThenRuns :
    let s := inProgress (regs .idle 0) (word 0x00000002#32) 1
    let s' := inProgress (regs .absorb 0) (word 0x00000002#32) 1
    check (decode s.command.cmdWord) s.command.len s.arch ≠ .none ∧
    check (decode s'.command.cmdWord) s'.command.len s'.arch = .none := by decide

/-- V-LIM-1. -/
theorem witness_BlockAbsorbsBlock :
    let s := small (regs .absorb 0x1FFFFFFFFFFFFF80#64)
    s.arch.phase = .absorb ∧ s.arch.byteCount.toNat + 64 ≤ 2 ^ 61 - 1 := by decide

theorem witness_FinalPadsOneBlock :
    let s := loaded (regs .absorb 0x1FFFFFFFFFFFFFC0#64) ⟨0x00003703#32, 0, 0x1FFFFFFFFFFFFFF7#64⟩
    55 ≤ 55 ∧ s.arch.phase = .absorb ∧ s.command.len.toNat ≤ 2 ^ 61 - 1 ∧
    s.command.len.toNat = s.arch.byteCount.toNat + 55 := by decide +kernel

/-- V-LIM-4. -/
theorem witness_FinalPadsTwoBlocks :
    let s := loaded (regs .absorb 0x1FFFFFFFFFFFFFC0#64) ⟨0x00003F03#32, 0, 0x1FFFFFFFFFFFFFFF#64⟩
    56 ≤ 63 ∧ 63 ≤ 63 ∧ s.arch.phase = .absorb ∧ s.command.len.toNat ≤ 2 ^ 61 - 1 ∧
    s.command.len.toNat = s.arch.byteCount.toNat + 63 := by decide +kernel

/-- One pair of commands for each constructor and for a reserved word, different in what it does not read. -/
theorem witness_UnreadOperandsIgnored :
    let i : Command := ⟨0x00000001#32, 1, 1⟩
    let b : Command := ⟨0x00000002#32, 0, 1⟩
    let f : Command := ⟨0x00000103#32, 1, 0⟩
    let r : Command := ⟨0x00000101#32, 1, 1⟩
    (r.cmdWord = (word 0x00000101#32).cmdWord ∧ decode r.cmdWord = .error .reservedBits ∧ r ≠ word 0x00000101#32) ∧
    (i.cmdWord = (word 0x00000001#32).cmdWord ∧ decode i.cmdWord = .ok .init ∧ i ≠ word 0x00000001#32) ∧
    (b.cmdWord = (word 0x00000002#32).cmdWord ∧ decode b.cmdWord = .ok .block ∧ b.din = (word 0x00000002#32).din ∧
      b ≠ word 0x00000002#32) ∧
    (f.cmdWord = (word 0x00000103#32).cmdWord ∧ decode f.cmdWord = .ok (.final 1) ∧ f.len = (word 0x00000103#32).len ∧
      (∀ k, k < 1 → laneByte f.din k = laneByte (word 0x00000103#32).din k) ∧ f ≠ word 0x00000103#32) := by
  decide +kernel

theorem witness_FinishedDigestIsClosed :
    let s := small ⟨Acc.iv, .done, 3, .none, 1⟩
    s.arch.phase = .done ∧ s.busy = false ∧ decode 0x00000002#32 ≠ .ok .init ∧ decode 0x00000002#32 = .ok .block := by
  decide

/-- An `INIT` that overwrites a running digest. -/
theorem witness_AccumulatorsWrittenOnlyByInitAndCompress :
    let s := inProgress ⟨⟨0, 0, 0, 0, 0⟩, .absorb, 64, .none, 0⟩ Command.init 1
    ∃ t, step s = .next t ∧ s.wires.rst = false ∧ t.arch.h ≠ s.arch.h := by
  refine ⟨_, rfl, rfl, ?_⟩
  decide +kernel

/-- A `BLOCK` that compresses: the zero block over zero accumulators (V-CMP-2). -/
theorem witness_AccumulatorsWrittenOnlyByInitAndCompress_block :
    let s := inProgress ⟨⟨0, 0, 0, 0, 0⟩, .absorb, 64, .none, 0⟩ (word 0x00000002#32) 1
    ∃ t, step s = .next t ∧ s.wires.rst = false ∧ t.arch.h ≠ s.arch.h := by
  intro s
  obtain ⟨t, ht, ha, -⟩ := complete_summary s.advance
  refine ⟨t, ht, rfl, ?_⟩
  rw [ha]
  decide +kernel

/-- A `FINAL` that compresses one padding block, from zero accumulators. -/
theorem witness_AccumulatorsWrittenOnlyByInitAndCompress_final :
    let s := inProgress ⟨⟨0, 0, 0, 0, 0⟩, .absorb, 0, .none, 0⟩ (Command.final 55 55 (letters 55)) 1
    ∃ t, step s = .next t ∧ s.wires.rst = false ∧ t.arch.h ≠ s.arch.h := by
  intro s
  obtain ⟨t, ht, ha, -⟩ := complete_summary s.advance
  refine ⟨t, ht, rfl, ?_⟩
  rw [ha]
  decide +kernel

/-- A `FINAL` that compresses two padding blocks, from zero accumulators. -/
theorem witness_AccumulatorsWrittenOnlyByInitAndCompress_final_two :
    let s := inProgress ⟨⟨0, 0, 0, 0, 0⟩, .absorb, 0, .none, 0⟩ (Command.final 56 56 (letters 56)) 1
    ∃ t, step s = .next t ∧ s.wires.rst = false ∧ t.arch.h ≠ s.arch.h := by
  intro s
  obtain ⟨t, ht, ha, -⟩ := complete_summary s.advance
  refine ⟨t, ht, rfl, ?_⟩
  rw [ha]
  decide +kernel

theorem witness_CommandFaultsChangeOnlyCodeAndPhase :
    (small (regs .idle 0)).arch.phase = .idle ∧ (small (regs .done 3)).arch.phase = .done ∧
    (small { regs .fault 3 with errCode := .lenMismatch }).arch.phase = .fault ∧
    (let s := small (regs .absorb 0x1FFFFFFFFFFFFFC0#64)
     s.arch.phase = .absorb ∧ s.arch.byteCount.toNat + 64 > 2 ^ 61 - 1) ∧
    (let s : State := { small (regs .absorb 0) with command := ⟨0x00000003#32, 0, 0x2000000000000000#64⟩ }
     s.arch.phase = .absorb ∧ s.command.len.toNat > 2 ^ 61 - 1) ∧
    (let s : State := { small (regs .absorb 0) with command := ⟨0x00000003#32, 0, 0x1FFFFFFFFFFFFFFF#64⟩ }
     s.arch.phase = .absorb ∧ s.command.len.toNat ≤ 2 ^ 61 - 1 ∧
       s.command.len.toNat ≠ s.arch.byteCount.toNat + 0) := by decide

theorem witness_ReservedWordEntersFault :
    let s := inProgress (regs .absorb 0) (word 0x00000101#32) 1
    s.wires.rst = false ∧ s.busy = true ∧ s.remaining ≤ 1 ∧ decode s.command.cmdWord = .error .reservedBits := by decide

/-- `BLOCK` before `INIT` (V-ERR-5). -/
theorem witness_FaultsArePrecise :
    ∃ t, execute (inProgress (regs .idle 0) (word 0x00000002#32) 1) = .next t ∧ t.arch.phase = .fault := ⟨_, rfl, rfl⟩

theorem witness_FaultLeftOnlyByInitOrReset :
    let s := inProgress ⟨Acc.iv, .fault, 0, .sequence, 0⟩ Command.init 1
    (∃ t, step s = .next t ∧ s.arch.phase = .fault ∧ t.arch ≠ s.arch) ∧
    ∃ t, step (wired s resetWires) = .next t ∧ t.arch ≠ (wired s resetWires).arch := by
  refine ⟨⟨_, rfl, rfl, ?_⟩, _, rfl, ?_⟩ <;> decide +kernel

/-- V-FLT-2. -/
theorem witness_FaultInFaultChangesNothing :
    (small ⟨Acc.iv, .fault, 0, .lenMismatch, 0⟩).arch.phase = .fault ∧ decode 0x00000101#32 ≠ .ok .init := by decide

theorem witness_ResetHasInvariant : Params.WellFormed ⟨1, 80, 80, 160, 1⟩ := by decide

/-- A step that completes an `INIT`, from a state that has the invariant. -/
theorem witness_StepKeepsInvariant :
    let s := inProgress (regs .absorb 0x1FFFFFFFFFFFFFC0#64) Command.init 1
    s.Inv ∧ ∃ t, step s = .next t := ⟨by decide +kernel, _, rfl⟩

theorem witness_RotateMovesBits : 1 ≤ 31 ∧ 31 ≤ 31 ∧ 31 < 32 := by decide

theorem witness_RotateRefusesOtherAmounts : (0 = 0 ∨ 32 ≤ 0) ∧ (32 = 0 ∨ 32 ≤ 32) := by decide

theorem witness_RotateIdentities : 1 ≤ 1 ∧ 1 ≤ 31 := by decide

/-- V-PAD-10, with every inner range met; and V-PAD-4, where no zero byte stands before the length field. -/
theorem witness_PaddingLayout :
    ((letters 63).length = 63 ∧ 63 ≤ 63 ∧ 2 ^ 61 - 1 ≤ 2 ^ 61 - 1 ∧ 62 < 63 ∧ 63 + 1 ≤ 119 ∧ 119 ≤ 128 - 9 ∧ 7 < 8) ∧
    ((letters 55).length = 55 ∧ 55 ≤ 63 ∧ 55 ≤ 2 ^ 61 - 1) := by decide

theorem witness_PaddingEndsInBitLength : (letters 55).length = 55 ∧ 55 ≤ 63 ∧ 2 ^ 61 - 9 ≤ 2 ^ 61 - 1 := by decide

theorem witness_PaddingRefusesOutsideDomain :
    ((letters 3).length ≠ 4) ∧ 63 < 64 ∧ 2 ^ 61 - 1 < 2 ^ 61 := by decide

theorem witness_PaddingLoopGivesSameBytes : (letters 63).length = 63 ∧ 63 ≤ 63 ∧ 2 ^ 61 - 1 ≤ 2 ^ 61 - 1 := by decide

theorem witness_ScheduleWords : 15 < 16 ∧ 16 ≤ 16 ∧ 16 ≤ 79 ∧ 79 < 80 := by decide

theorem witness_RoundFunctionTable : 19 ≤ 19 ∧ 20 ≤ 39 ∧ 39 ≤ 39 ∧ 40 ≤ 59 ∧ 59 ≤ 59 ∧ 60 ≤ 79 ∧ 79 ≤ 79 := by decide

theorem witness_CompressRunsEightyRounds : 79 < 80 := by decide

theorem witness_RoundsMakeOneNewValue : 80 ≤ 80 := by decide

theorem witness_Sha1FoldsCompress :
    (letters 119).length ≤ 2 ^ 61 - 1 ∧ 63 < 64 ∧ 64 * 1 + 54 < (letters 119).length := by decide

theorem witness_HashEndsInDigest : (letters 119).length ≤ 2 ^ 61 - 1 ∧ (small (regs .fault 64)).busy = false ∧ 1 ≤ 3 := by
  decide

theorem witness_InitForgetsHistory : decode Command.init.cmdWord = .ok .init := by decide

theorem witness_ChunkSizeDoesNotMatter : 0 < 64 ∧ 64 % 64 = 0 ∧ 4096 % 64 = 0 := by decide

theorem witness_AssemblerPlacesOperands :
    (letters 63).length ≠ 64 ∧ (letters 64).length = 64 ∧ 63 < 64 ∧ (letters 2).length ≠ 3 ∧ 2 ^ 64 ≤ 2 ^ 64 ∧
    63 ≤ 63 ∧ (letters 63).length = 63 ∧ 2 ^ 64 - 1 < 2 ^ 64 := by decide

theorem witness_InstancesShareNoState :
    (Platform.mk [State.reset, small (regs .done 3)]).instances[1]? = some (small (regs .done 3)) ∧ 0 ≠ 1 := by
  decide +kernel

theorem witness_AssemblerPlacesRawOperands :
    2 ^ 32 ≤ 2 ^ 32 ∧ 2 ^ 64 ≤ 2 ^ 64 ∧ (letters 63).length ≠ 64 ∧ 2 ^ 32 - 1 < 2 ^ 32 ∧ 2 ^ 64 - 1 < 2 ^ 64 ∧
    (letters 64).length = 64 ∧ 63 < 64 ∧ 2 ^ 61 - 1 < (letters (2 ^ 61)).length := by
  refine ⟨by decide, by decide, by decide, by decide, by decide, by decide, by decide, ?_⟩
  rw [letters, List.length_replicate]
  decide

theorem witness_HashExpandsToLines : (letters 129).length ≤ 2 ^ 61 - 1 := by decide +kernel

end Sys2Proof.Tests
end

section
/-! The model's own fields under every kind of edge. -/

namespace Sys2Proof.Machine

/-- Settles O7, by the kind of edge: each starts with `advance`, which alone moves these fields, and neither what an edge
does to the registers nor a completing command (`complete_summary`) touches them again. -/
theorem everyStepUsesOneEdgeOfWires : Obligations.EveryStepUsesOneEdgeOfWires := by
  intro s
  rcases step_cases s with
    ⟨-, reset⟩ | ⟨-, -, -, completing⟩ | ⟨-, -, -, counting⟩ | ⟨-, -, -, accepting⟩ | ⟨-, -, -, idle⟩
  · exact ⟨_, reset, by simp⟩
  · obtain ⟨t, ht, -, -, -, -, -, inputs, freeIndex, params⟩ := complete_summary s.advance
    exact ⟨t, completing.trans ht, by simp [inputs, freeIndex, params]⟩
  · exact ⟨_, counting, by simp⟩
  · exact ⟨_, accepting, by simp⟩
  · exact ⟨_, idle, by simp⟩

end Sys2Proof.Machine
end

section
/-! What the completing edge writes, case by case, and which registers each kind of edge leaves alone. -/

namespace Sys2Proof.Machine

variable {s t : State}

/-- The tail length of a decoded FINAL is a six-bit number. -/
theorem decode_final_le {w : Word32} {l : Nat} (h : decode w = .ok (.final l)) : l ≤ 63 := by
  simpa [Instr.wellFormed] using decode_wellFormed h

/-- A sampled command takes the fault CHECK reports, or has the effect of the command its word decodes to. -/
theorem archAfter_cases (c : Command) (a : Arch) :
    (check (decode c.cmdWord) c.len a ≠ .none ∧
      archAfter c a = a.raiseFault (check (decode c.cmdWord) c.len a)) ∨
    ∃ i, decode c.cmdWord = .ok i ∧ check (.ok i) c.len a = .none ∧ archAfter c a = effectArch i c a := by
  by_cases hcheck : check (decode c.cmdWord) c.len a = .none
  · cases hdec : decode c.cmdWord with
    | error code => exact absurd (by simpa [hdec, check] using hcheck) (decode_error_ne_none hdec)
    | ok i =>
      rw [hdec] at hcheck
      exact .inr ⟨i, rfl, hcheck, by simp [archAfter, hdec, hcheck]⟩
  · exact .inl ⟨hcheck, by simp [archAfter, hcheck]⟩

@[simp] theorem Arch.raiseFault_h (code : ErrCode) (a : Arch) : (a.raiseFault code).h = a.h := rfl
@[simp] theorem Arch.raiseFault_phase (code : ErrCode) (a : Arch) : (a.raiseFault code).phase = .fault := rfl
@[simp] theorem Arch.raiseFault_byteCount (code : ErrCode) (a : Arch) :
    (a.raiseFault code).byteCount = a.byteCount := rfl
@[simp] theorem Arch.raiseFault_npad (code : ErrCode) (a : Arch) : (a.raiseFault code).npad = a.npad := rfl

/-- An edge without reset writes the architectural registers only where a command completes, and there as `archAfter`
says. -/
theorem step_arch (ht : step s = .next t) (hrst : s.wires.rst = false) :
    t.arch = s.arch ∨ (s.busy = true ∧ s.remaining ≤ 1 ∧ t.arch = archAfter s.command s.arch) := by
  rcases step_cases s with
    ⟨reset, -⟩ | ⟨-, busy, last, completing⟩ | ⟨-, -, -, counting⟩ | ⟨-, -, -, accepting⟩ | ⟨-, -, -, idle⟩
  · simp [reset] at hrst
  · obtain ⟨u, hu, arch, -⟩ := complete_summary s.advance
    cases (completing.trans hu).symm.trans ht
    exact .inr ⟨busy, last, by simpa using arch⟩
  · cases counting.symm.trans ht
    exact .inl (by simp)
  · cases accepting.symm.trans ht
    exact .inl (by simp)
  · cases idle.symm.trans ht
    exact .inl (by simp)

end Sys2Proof.Machine
end

section
/-! The invariants of the registers and of `busy` (10_state.md R25 to R28): they hold after reset, every command's effect
keeps them, and so does every edge. -/

namespace Sys2Proof.Machine

/-! ### The architectural registers -/

theorem Arch.afterReset_inv : Arch.afterReset.Inv := by decide

theorem Arch.started_inv : Arch.started.Inv := by decide

/-- In every phase byte_count and npad are in the range FAULT asks for, so a fault can be taken anywhere. -/
theorem Arch.Inv.inRange {a : Arch} (h : a.Inv) : a.byteCount.toNat ≤ maxMsgBytes ∧ a.npad.toNat ≤ 2 := by
  obtain ⟨hidle, habsorb, hdone, hfault, -⟩ := h
  cases hphase : a.phase with
  | idle => rw [hidle hphase]; decide
  | absorb =>
    obtain ⟨-, hcount, hnpad⟩ := habsorb hphase
    exact ⟨by unfold maxMsgBytes; omega, by simp [hnpad]⟩
  | done =>
    obtain ⟨hcount, hnpad⟩ := hdone hphase
    exact ⟨hcount, by rw [hnpad]; split <;> decide⟩
  | fault => exact hfault hphase

/-- Outside FAULT no fault is recorded. -/
theorem Arch.Inv.errCode_eq_none {a : Arch} (h : a.Inv) (hphase : a.phase ≠ .fault) : a.errCode = .none := by
  obtain ⟨-, -, -, -, hcode⟩ := h
  exact not_not.1 (mt hcode.1 hphase)

/-- Taking a fault keeps the invariant: the range of R25 and R27 carries over, and the code recorded is the new one, or in
FAULT the first one. -/
theorem Arch.Inv.raiseFault {a : Arch} (h : a.Inv) {code : ErrCode} (hcode : code ≠ .none) :
    (a.raiseFault code).Inv := by
  have herr : (a.raiseFault code).errCode ≠ .none := by
    obtain ⟨-, -, -, -, hrecorded⟩ := h
    by_cases hphase : a.phase = .fault
    · simpa [Arch.raiseFault, hphase] using hrecorded.2 hphase
    · simpa [Arch.raiseFault, hphase] using hcode
  exact ⟨by simp, by simp, by simp, fun _ => h.inRange, by simpa using herr⟩

/-- A BLOCK that passes CHECK keeps byte_count a multiple of 64, and its limit 2^61 - 1 rounds down to 2^61 - 64. -/
theorem Arch.Inv.effectArch_block {a : Arch} (h : a.Inv) {c : Command}
    (hcheck : check (.ok .block) c.len a = .none) : (effectArch .block c a).Inv := by
  obtain ⟨hphase, hlimit⟩ := check_block_eq_none.1 hcheck
  have herr := h.errCode_eq_none (by simp [hphase])
  obtain ⟨-, habsorb, -⟩ := h
  obtain ⟨haligned, -, hnpad⟩ := habsorb hphase
  unfold maxMsgBytes at hlimit
  suffices (a.byteCount.toNat + 64) % 2 ^ 64 % 64 = 0 ∧ (a.byteCount.toNat + 64) % 2 ^ 64 ≤ 2 ^ 61 - 64 by
    simpa [Arch.Inv, effectArch, hphase, herr, hnpad] using this
  omega

/-- A FINAL(L) that passes CHECK: L is the number of bytes after the last complete block, so npad follows byte_count
(41_padding.md R117). -/
theorem Arch.Inv.effectArch_final {a : Arch} (h : a.Inv) {c : Command} {l : Nat} (hl : l ≤ 63)
    (hcheck : check (.ok (.final l)) c.len a = .none) : (effectArch (.final l) c a).Inv := by
  obtain ⟨hphase, hlimit, hlen⟩ := check_final_eq_none.1 hcheck
  have herr := h.errCode_eq_none (by simp [hphase])
  obtain ⟨-, habsorb, -⟩ := h
  obtain ⟨haligned, -, -⟩ := habsorb hphase
  have htail : c.len.toNat % 64 = l := by omega
  have hnpad : BitVec.ofNat 2 (padLength l / 64) = if l < 56 then 1 else 2 := by
    unfold padLength
    split <;> rfl
  simp [Arch.Inv, effectArch, herr, hlimit, htail, hnpad]

/-- Every sampled command keeps the invariant of the registers. -/
theorem Arch.Inv.archAfter {a : Arch} (h : a.Inv) (c : Command) : (archAfter c a).Inv := by
  rcases archAfter_cases c a with ⟨hfault, e⟩ | ⟨i, hdec, hcheck, e⟩
  · rw [e]
    exact h.raiseFault hfault
  · rw [e]
    cases i with
    | init => exact Arch.started_inv
    | block => exact h.effectArch_block hcheck
    | final l => exact h.effectArch_final (decode_final_le hdec) hcheck

/-! ### `busy` and the countdown -/

theorem latency_pos (c : Command) (a : Arch) {p : Params} (hp : p.WellFormed) : 1 ≤ latency c a p := by
  obtain ⟨hinit, hblock, hfinal1, hfinal2, herr⟩ := hp
  unfold latency
  split
  · exact herr
  · split
    · exact herr
    · exact hinit
    · exact hblock
    · split
      · exact hfinal1
      · exact hfinal2

/-- With no command in progress, the registers and the latencies are all there is to the invariant. -/
theorem State.inv_of_not_busy {s : State} (harch : s.arch.Inv) (hparams : s.params.WellFormed) (hbusy : s.busy = false)
    (hremaining : s.remaining = 0) : s.Inv :=
  ⟨harch, hparams, by simp [hbusy, hremaining], by simp [hbusy]⟩

/-- Settles O37, by the kind of edge: only the completing edge changes the registers (`Arch.Inv.archAfter`); the accepting
edge starts the countdown at the latency, which is at least 1, and each later edge but the completing one takes 1 off a
countdown above 1. -/
theorem stepKeepsInvariant : Obligations.StepKeepsInvariant := by
  intro s t ⟨harch, hparams, hbusy, hbound⟩ ht
  rcases step_cases s with
    ⟨-, reset⟩ | ⟨-, -, -, completing⟩ | ⟨-, busy, more, counting⟩ | ⟨-, -, -, accepting⟩ | ⟨-, free, -, idle⟩
  · cases reset.symm.trans ht
    exact State.inv_of_not_busy (by simpa using Arch.afterReset_inv) (by simpa using hparams) (by simp) (by simp)
  · obtain ⟨u, hu, arch, busy, remaining, -, -, -, params⟩ := complete_summary s.advance
    cases (completing.trans hu).symm.trans ht
    exact State.inv_of_not_busy (arch ▸ Arch.Inv.archAfter (by simpa using harch) _) (by simpa [params] using hparams)
      busy remaining
  · cases counting.symm.trans ht
    have hremaining := hbound busy
    exact ⟨by simpa using harch, by simpa using hparams, by simp [busy]; omega, by simp; omega⟩
  · cases accepting.symm.trans ht
    exact ⟨by simpa using harch, by simpa using hparams, by simpa using latency_pos _ _ hparams, by simp⟩
  · cases idle.symm.trans ht
    have hremaining : s.remaining = 0 := by simpa [free] using hbusy
    exact State.inv_of_not_busy (by simpa using harch) (by simpa using hparams) (by simpa using free)
      (by simpa using hremaining)

theorem State.resetWith_inv (p : Params) (hp : p.WellFormed) : (State.resetWith p).Inv :=
  State.inv_of_not_busy Arch.afterReset_inv hp rfl rfl

/-- Settles O36: after reset the registers are those of IDLE and no command is in progress. -/
theorem resetHasInvariant : Obligations.ResetHasInvariant :=
  ⟨State.resetWith_inv Params.smallest (by decide), State.resetWith_inv⟩

end Sys2Proof.Machine
end

section
/-! Who writes the accumulators (10_state.md R22). -/

namespace Sys2Proof.Machine

/-- A FINAL(L) that passes CHECK: PAD answers, with one or two blocks, and H is COMPRESS of them in order. -/
theorem effectArch_final_h {l : Nat} (hl : l ≤ 63) {c : Command} {a : Arch}
    (hcheck : check (.ok (.final l)) c.len a = .none) :
    ∃ n p, pad (tail l (laneBlock c.din)) l c.len.toNat = .ok (n, p) ∧
      (n = 64 ∧ (effectArch (.final l) c a).h = compress a.h (blockAt p 0) ∨
       n = 128 ∧ (effectArch (.final l) c a).h = compress (compress a.h (blockAt p 0)) (blockAt p 1)) := by
  obtain ⟨-, hlimit, -⟩ := check_final_eq_none.1 hcheck
  refine ⟨padLength l, finalPadding l c, pad_of_domain ⟨tail_length hl _, hl, hlimit⟩, ?_⟩
  rcases padLength_cases l with ⟨hn, -⟩ | ⟨hn, -⟩
  · exact .inl ⟨hn, by simp [effectArch, finalAcc, hn]⟩
  · exact .inr ⟨hn, by simp [effectArch, finalAcc, hn]⟩

/-- Settles O29: without reset only the completing edge writes registers (`step_arch`), a fault keeps H, and each command
that passes CHECK writes it as its row says. -/
theorem accumulatorsWrittenOnlyByInitAndCompress : Obligations.AccumulatorsWrittenOnlyByInitAndCompress := by
  intro s t ht hrst hchanged
  rcases step_arch ht hrst with same | ⟨busy, last, arch⟩
  · exact absurd (by rw [same]) hchanged
  refine ⟨busy, last, ?_⟩
  rcases archAfter_cases s.command s.arch with ⟨-, e⟩ | ⟨i, hdec, hcheck, e⟩
  · exact absurd (by rw [arch, e, Arch.raiseFault_h]) hchanged
  · rw [arch, e]
    cases i with
    | init => exact .inl ⟨hdec, rfl⟩
    | block => exact .inr (.inl ⟨hdec, rfl⟩)
    | final l =>
      obtain ⟨n, p, hpad, hh⟩ := effectArch_final_h (decode_final_le hdec) hcheck
      exact .inr (.inr ⟨l, n, p, hdec, hpad, hh⟩)

end Sys2Proof.Machine
end

section
/-! The output ports: the fields of `status` (10_state.md R30), the words of `digest` (R29), the handshake (R32), and
their values after reset (R38). -/

namespace Sys2Proof.Machine

/-! ### The fields of a status word -/

/-- Reading six appended fields of a status word's widths back, from the top. -/
theorem extractLsb'_append_statusFields (r : BitVec 22) (n : BitVec 2) (e : BitVec 4) (v b : BitVec 1) (p : BitVec 2) :
    (r ++ n ++ e ++ v ++ b ++ p).extractLsb' 10 22 = r ∧ (r ++ n ++ e ++ v ++ b ++ p).extractLsb' 8 2 = n ∧
    (r ++ n ++ e ++ v ++ b ++ p).extractLsb' 4 4 = e ∧ (r ++ n ++ e ++ v ++ b ++ p).extractLsb' 3 1 = v ∧
    (r ++ n ++ e ++ v ++ b ++ p).extractLsb' 2 1 = b ∧ (r ++ n ++ e ++ v ++ b ++ p).extractLsb' 0 2 = p := by
  simp (disch := omega) [-Nat.reduceAdd, BitVec.extractLsb'_append_eq_of_le,
    BitVec.extractLsb'_append_eq_of_add_le]

/-- The fields of a status word are what it was made from. -/
@[simp] theorem statusWord_fields (npad : BitVec 2) (err : BitVec 4) (valid busy : Bool) (phase : BitVec 2) :
    (statusWord npad err valid busy phase).extractLsb' 10 22 = 0 ∧
    (statusWord npad err valid busy phase).extractLsb' 8 2 = npad ∧
    (statusWord npad err valid busy phase).extractLsb' 4 4 = err ∧
    (statusWord npad err valid busy phase).extractLsb' 3 1 = BitVec.ofBool valid ∧
    (statusWord npad err valid busy phase).extractLsb' 2 1 = BitVec.ofBool busy ∧
    (statusWord npad err valid busy phase).extractLsb' 0 2 = phase :=
  extractLsb'_append_statusFields ..

theorem State.statusPort_of_busy {s : State} (h : s.busy = true) :
    s.statusPort = statusWord (Config.busyNpad s.freeIndex) (Config.busyErrCode s.freeIndex) false true
      (Config.busyPhase s.freeIndex) := by
  simp [State.statusPort, State.digestValid, h]

/-- Settles O9, by `busy`: either way the port is a status word, whose fields the lemmas above read off. -/
theorem statusWordFields : Obligations.StatusWordFields := by
  intro s
  cases hbusy : s.busy with
  | true =>
    rw [State.statusPort_of_busy hbusy]
    simp
  | false =>
    rw [State.statusPort_of_not_busy _ hbusy]
    refine ⟨by simp, by simp, by simp, fun _ => ⟨?_, ?_, ?_, by simp⟩⟩
    · cases hphase : s.arch.phase <;> simp [Phase.code]
    · by_cases hdone : s.arch.phase = .done <;> simp [State.digestValid, hbusy, hdone]
    · cases hcode : s.arch.errCode <;> simp [errCodeBits]

/-! ### The words of the digest -/

/-- Reading five appended 32-bit words back, from the top. -/
theorem extractLsb'_append_words (a b c d e : Word32) :
    (a ++ b ++ c ++ d ++ e).extractLsb' 128 32 = a ∧ (a ++ b ++ c ++ d ++ e).extractLsb' 96 32 = b ∧
    (a ++ b ++ c ++ d ++ e).extractLsb' 64 32 = c ∧ (a ++ b ++ c ++ d ++ e).extractLsb' 32 32 = d ∧
    (a ++ b ++ c ++ d ++ e).extractLsb' 0 32 = e := by
  simp (disch := omega) [-Nat.reduceAdd, BitVec.extractLsb'_append_eq_of_le,
    BitVec.extractLsb'_append_eq_of_add_le]

theorem Acc.bits_words (h : Acc) :
    h.bits.extractLsb' 128 32 = h.h0 ∧ h.bits.extractLsb' 96 32 = h.h1 ∧ h.bits.extractLsb' 64 32 = h.h2 ∧
    h.bits.extractLsb' 32 32 = h.h3 ∧ h.bits.extractLsb' 0 32 = h.h4 :=
  extractLsb'_append_words ..

/-- Settles O10: while `busy = 0` the ports are the registers (`digestPort_of_not_busy`, `countPort_of_not_busy`). -/
theorem digestAndCountPorts : Obligations.DigestAndCountPorts := by
  intro s hbusy
  obtain ⟨h0, h1, h2, h3, h4⟩ := s.arch.h.bits_words
  rw [State.digestPort_of_not_busy _ hbusy, State.countPort_of_not_busy _ hbusy]
  exact ⟨h0, h1, h2, h3, h4, rfl⟩

/-! ### The handshake -/

theorem State.cmdReady_iff (s : State) : s.cmdReady = true ↔ s.wires.rst = false ∧ s.busy = false := by
  simp [State.cmdReady]

/-- Settles O6, by the kind of edge: only the accepting edge raises `busy`, and only there are `cmd_valid` and
`cmd_ready` both 1. -/
theorem acceptedExactlyWhenValidAndReady : Obligations.AcceptedExactlyWhenValidAndReady := by
  refine ⟨State.cmdReady_iff, fun s t ht => ?_⟩
  rw [State.cmdReady_iff]
  rcases step_cases s with
    ⟨rst, reset⟩ | ⟨-, busy, -, -⟩ | ⟨-, busy, -, -⟩ | ⟨rst, free, valid, accepting⟩ | ⟨-, free, invalid, idle⟩
  · cases reset.symm.trans ht
    simp [rst]
  · simp [busy]
  · simp [busy]
  · cases accepting.symm.trans ht
    simp [rst, free, valid]
  · cases idle.symm.trans ht
    simp [free, invalid]

/-! ### After reset -/

theorem statusWord_zero : statusWord 0 0 false false 0 = 0 := by decide

theorem Acc.iv_bits : Acc.iv.bits = 0x67452301EFCDAB8998BADCFE10325476C3D2E1F0#160 := by decide

/-- Settles O2: no command is in progress after reset, so the ports show the reset registers. -/
theorem resetStateValues : Obligations.ResetStateValues := by
  refine ⟨⟨Params.smallest, rfl⟩, ?_⟩
  rintro p _ rfl
  have hbusy : (State.resetWith p).busy = false := rfl
  rw [State.statusPort_of_not_busy _ hbusy, State.countPort_of_not_busy _ hbusy, State.digestPort_of_not_busy _ hbusy]
  exact ⟨rfl, rfl, rfl, rfl, rfl, rfl, statusWord_zero, rfl, Acc.iv_bits⟩

end Sys2Proof.Machine
end

section
/-! What an edge does by its kind, one rule each, and the statements about a single kind of edge
or about one of a platform's instances. -/

namespace Sys2Proof.Machine

variable {s : State}

/-! ### The kinds of edge -/

theorem step_of_reset (hrst : s.wires.rst = true) : step s = .next s.advance.resetEdge := by
  simp [step, clockEdge, hrst]

theorem step_of_completing (hrst : s.wires.rst = false) (hbusy : s.busy = true) (hlast : s.remaining ≤ 1) :
    step s = complete s.advance := by
  simp [step, clockEdge, hrst, hbusy, hlast]

theorem step_of_counting (hrst : s.wires.rst = false) (hbusy : s.busy = true) (hmore : 1 < s.remaining) :
    step s = .next s.advance.countDown := by
  simp [step, clockEdge, hrst, hbusy, Nat.not_le.2 hmore]

theorem step_of_accepting (hrst : s.wires.rst = false) (hfree : s.busy = false) (hvalid : s.wires.cmdValid = true) :
    step s = .next (s.advance.accept s.wires.command (latency s.wires.command s.arch s.params)) := by
  simp [step, clockEdge, hrst, hfree, hvalid]

theorem step_of_idle (hrst : s.wires.rst = false) (hfree : s.busy = false) (hinvalid : s.wires.cmdValid = false) :
    step s = .next s.advance := by
  simp [step, clockEdge, hrst, hfree, hinvalid]

/-! ### Accepting, and waiting for a command to complete -/

/-- Settles O5: of the five kinds of edge this is the accepting one, and `accept` writes the sampled command, `busy` and
the countdown alone. -/
theorem acceptingEdgeSamples : Obligations.AcceptingEdgeSamples := by
  intro s hready hvalid
  obtain ⟨hrst, hfree⟩ := s.cmdReady_iff.1 hready
  exact ⟨_, step_of_accepting hrst hfree hvalid, by simp [Wires.command]⟩

/-- Settles O8: while busy the edge completes a command or counts down, and both look only at the state after `advance`,
where the wires of the edge are used up. -/
theorem inputsIgnoredWhileBusy : Obligations.InputsIgnoredWhileBusy := by
  intro s w w' rest hbusy hrst hrst'
  rcases Nat.lt_or_ge 1 s.remaining with hmore | hlast
  · rw [step_of_counting (s := { s with inputs := w :: rest }) hrst hbusy hmore,
      step_of_counting (s := { s with inputs := w' :: rest }) hrst' hbusy hmore]
    rfl
  · rw [step_of_completing (s := { s with inputs := w :: rest }) hrst hbusy hlast,
      step_of_completing (s := { s with inputs := w' :: rest }) hrst' hbusy hlast]
    rfl

/-! ### A command placed by its table word -/

theorem decodeTableWord_eq_some {nbits w : Nat} {i : Instr} (h : decodeTableWord nbits w = some i) :
    decode (BitVec.ofNat 32 (w % 2 ^ nbits)) = .ok i := by
  unfold decodeTableWord at h
  split at h
  · cases hdec : decode (BitVec.ofNat 32 (w % 2 ^ nbits)) with
    | error c => simp [hdec] at h
    | ok j => simpa [hdec] using h
  · cases h

/-- Completing a sampled command whose word decodes. -/
theorem complete_of_decode {i : Instr} (h : decode s.command.cmdWord = .ok i) :
    complete s = retireResult (exec i s.loadBlkBuf) := by
  simp [complete, execute, h]

/-- Settles O20: `withFetchWord` places the word at its completing edge, and that edge runs what the word decodes to. -/
theorem fetchWordRunsNext : Obligations.FetchWordRunsNext := by
  intro s nbits w i h
  unfold State.withFetchWord
  refine ⟨_, rfl, by simp, by simp, by simp, ?_⟩
  rw [step_of_completing (by simp [Wires.idle]) (by simp) (by simp)]
  exact complete_of_decode (by simpa using decodeTableWord_eq_some h)

/-! ### Instances -/

theorem Platform.edge_of_step {p : Platform} {k : Nat} {t : State} (hk : p.instances[k]? = some s)
    (ht : step s = .next t) : p.edge k = some ⟨p.instances.set k t⟩ := by
  simp [Platform.edge, hk, ht]

/-- Settles O57: every step answers a next state, and an edge at k sets entry k of the list of instances alone. -/
theorem instancesShareNoState : Obligations.InstancesShareNoState := by
  intro p k s hk
  obtain ⟨t, ht, -⟩ := everyStepUsesOneEdgeOfWires s
  obtain ⟨hlt, -⟩ := List.getElem?_eq_some_iff.1 hk
  exact ⟨_, t, Platform.edge_of_step hk ht, ht, List.getElem?_set_self hlt, List.length_set,
    fun j hj => List.getElem?_set_ne hj.symm⟩

end Sys2Proof.Machine
end

section
/-! The hidden registers are never read before they are written (20_memory.md R63, 10_state.md section 4): other values
there change nothing at an edge but, at most, those values themselves. -/

namespace Sys2Proof.Machine

variable {s t : State}

/-! ### Two states that agree in everything but the hidden registers -/

theorem sameButHidden_setHidden (s : State) (x : Hidden) : SameButHidden s (s.setHidden x) := rfl

/-- No output port reads a hidden register. -/
theorem SameButHidden.ports_eq (h : SameButHidden s t) :
    t.statusPort = s.statusPort ∧ t.digestPort = s.digestPort ∧ t.countPort = s.countPort ∧
    t.cmdReady = s.cmdReady := by
  rw [← h]
  exact ⟨rfl, rfl, rfl, rfl⟩

/-! ### What an edge does with the hidden registers -/

/-- A completing command writes every hidden register it reads, and leaves none behind: `archAfter` is computed from the
sampled command and the architectural registers. -/
theorem complete_setHidden (s : State) (x : Hidden) : complete (s.setHidden x) = complete s := by
  obtain ⟨t, ht, arch, busy, remaining, hidden, command, inputs, freeIndex, params⟩ := complete_summary s
  obtain ⟨t', ht', arch', busy', remaining', hidden', command', inputs', freeIndex', params'⟩ :=
    complete_summary (s.setHidden x)
  have heq : t' = t := by
    cases t
    cases t'
    simp_all
  rw [ht, ht', heq]

/-- An edge from a state with other hidden registers is of the same kind. One that resets or completes a command answers
the very same state; any other leaves the hidden registers alone. -/
theorem step_setHidden (s : State) (x : Hidden) :
    step (s.setHidden x) = step s ∨
    ∃ t, step s = .next t ∧ step (s.setHidden x) = .next (t.setHidden x) := by
  rcases step_cases s with
    ⟨rst, reset⟩ | ⟨rst, busy, last, completing⟩ | ⟨rst, busy, more, counting⟩ |
    ⟨rst, free, valid, accepting⟩ | ⟨rst, free, invalid, idle⟩
  · exact .inl ((step_of_reset (s := s.setHidden x) rst).trans reset.symm)
  · refine .inl ?_
    rw [completing, ← complete_setHidden s.advance x]
    exact step_of_completing rst busy last
  · exact .inr ⟨_, counting, step_of_counting rst busy more⟩
  · exact .inr ⟨_, accepting, step_of_accepting rst free valid⟩
  · exact .inr ⟨_, idle, step_of_idle rst free invalid⟩

/-- Settles O38: by `step_setHidden` the two edges end in states that agree but in the hidden registers, which no port
reads. -/
theorem hiddenStateNeverObserved : Obligations.HiddenStateNeverObserved := by
  intro s x
  obtain ⟨t, ht, -⟩ := everyStepUsesOneEdgeOfWires s
  suffices ∃ t', step (s.setHidden x) = .next t' ∧ SameButHidden t t' by
    obtain ⟨t', ht', hsame⟩ := this
    exact ⟨t, t', ht, ht', hsame, hsame.ports_eq⟩
  rcases step_setHidden s x with heq | ⟨u, hu, hu'⟩
  · exact ⟨t, heq.trans ht, rfl⟩
  · cases hu.symm.trans ht
    exact ⟨_, hu', sameButHidden_setHidden t x⟩

end Sys2Proof.Machine
end

section
/-! Byte order: the digest as bytes (20_memory.md R55), and the lanes of `din` (R52) with the schedule words they carry. -/

namespace Sys2Proof.Machine

/-- A slice of a slice is a slice. -/
theorem extractLsb'_extractLsb' {w len' start len : Nat} (x : BitVec w) (start' : Nat) (h : start + len ≤ len') :
    (x.extractLsb' start' len').extractLsb' start len = x.extractLsb' (start' + start) len := by
  ext i hi
  have hin : start + i < len' := by omega
  simp [hin, Nat.add_assoc]

/-! ### The digest -/

theorem Acc.digestBytes_length (h : Acc) : h.digestBytes.length = 20 := rfl

/-- Byte 4i + j is byte j of H[i]. -/
theorem Acc.digestBytes_words (h : Acc) {j : Nat} (hj : j < 4) :
    h.digestBytes[j]? = some (h.h0.extractLsb' (24 - 8 * j) 8) ∧
    h.digestBytes[4 + j]? = some (h.h1.extractLsb' (24 - 8 * j) 8) ∧
    h.digestBytes[8 + j]? = some (h.h2.extractLsb' (24 - 8 * j) 8) ∧
    h.digestBytes[12 + j]? = some (h.h3.extractLsb' (24 - 8 * j) 8) ∧
    h.digestBytes[16 + j]? = some (h.h4.extractLsb' (24 - 8 * j) 8) := by
  interval_cases j <;> exact ⟨rfl, rfl, rfl, rfl, rfl⟩

/-- Byte 4i + j of the digest is byte j of the i-th word of the port, counted from the top. -/
theorem Acc.digestBytes_bits (h : Acc) {i j : Nat} (hi : i < 5) (hj : j < 4) :
    h.digestBytes[4 * i + j]? = some ((h.bits.extractLsb' (128 - 32 * i) 32).extractLsb' (24 - 8 * j) 8) := by
  obtain ⟨w0, w1, w2, w3, w4⟩ := h.bits_words
  obtain ⟨b0, b1, b2, b3, b4⟩ := h.digestBytes_words hj
  interval_cases i
  · simpa [w0] using b0
  · simpa [w1] using b1
  · simpa [w2] using b2
  · simpa [w3] using b3
  · simpa [w4] using b4

/-- Settles O11: the bytes of the words of H are the bytes of the port's words, so they spell the port from the top. -/
theorem digestByteOrder : Obligations.DigestByteOrder := by
  intro h
  refine ⟨h.digestBytes_length, fun j hj => h.digestBytes_words hj, fun k hk => ?_⟩
  have hbyte := h.digestBytes_bits (i := k / 4) (j := k % 4) (by omega) (by omega)
  rw [Nat.div_add_mod, extractLsb'_extractLsb' _ _ (by omega)] at hbyte
  rw [hbyte]
  congr 2
  omega

/-! ### The lanes of `din` -/

/-- Four neighbouring lanes packed big-endian are one 32-bit slice of `din`. -/
theorem bigEndian_laneByte (din : BitVec 512) {j : Nat} (hj : j < 16) :
    bigEndian (laneByte din (4 * j)) (laneByte din (4 * j + 1)) (laneByte din (4 * j + 2)) (laneByte din (4 * j + 3)) =
      din.extractLsb' (480 - 32 * j) 32 := by
  unfold bigEndian laneByte
  rw [BitVec.extractLsb'_append_extractLsb'_eq_extractLsb' (by omega),
    BitVec.extractLsb'_append_extractLsb'_eq_extractLsb' (by omega),
    BitVec.extractLsb'_append_extractLsb'_eq_extractLsb' (by omega)]
  congr 1
  omega

/-- The first 16 schedule words are the block's bytes, four per word (42_compressor.md R131). -/
theorem schedule_getElem_packed (b : Block) {j : Nat} (hj : j < 16) :
    (schedule b)[j] = bigEndian b[4 * j] b[4 * j + 1] b[4 * j + 2] b[4 * j + 3] := by
  have hword : (schedule b).toList[j]? = some (bigEndian b[4 * j] b[4 * j + 1] b[4 * j + 2] b[4 * j + 3]) := by
    rw [schedule_getElem?_of_le b (Nat.zero_le 64) hj, expand, packedWords,
      packWords_getElem? j b.toList (by rw [Vector.length_toList]; omega)]
    simp only [Vector.getElem_toList]
  rw [Vector.getElem?_toList, Vector.getElem?_eq_getElem (by omega)] at hword
  exact Option.some.inj hword

/-- Settles O12: the bytes are the lanes by `laneBlock`, and a schedule word packs four neighbouring ones. -/
theorem dinLanes : Obligations.DinLanes := by
  intro s
  simp only [State.loadBlkBuf_hidden_blkBuf]
  refine ⟨fun k hk => laneBlock_getElem _ k hk, fun j hj => ?_⟩
  rw [schedule_getElem_packed _ hj]
  simp only [laneBlock_getElem, bigEndian_laneByte _ hj]

end Sys2Proof.Machine
end

section
/-! The decoder and the encoder through the fields of the command word (30_encoding.md R70, R72 to R75). -/

namespace Sys2Proof

variable {w v : Word32} {i : Instr} {l : Nat}

/-! ### The fields of a command word -/

/-- A command word from its fields (30_encoding.md R70). -/
def wordOfFields (rsv1 : BitVec 18) (tl : BitVec 6) (rsv0 op : BitVec 4) : Word32 := rsv1 ++ tl ++ rsv0 ++ op

@[simp] theorem wordOfFields_fields (rsv1 : BitVec 18) (tl : BitVec 6) (rsv0 op : BitVec 4) :
    rsv1Field (wordOfFields rsv1 tl rsv0 op) = rsv1 ∧ tlField (wordOfFields rsv1 tl rsv0 op) = tl ∧
    rsv0Field (wordOfFields rsv1 tl rsv0 op) = rsv0 ∧ opField (wordOfFields rsv1 tl rsv0 op) = op := by
  unfold rsv1Field tlField rsv0Field opField wordOfFields
  simp (disch := omega) [-Nat.reduceAdd, BitVec.extractLsb'_append_eq_of_le,
    BitVec.extractLsb'_append_eq_of_add_le]

/-- The four fields are the whole word. -/
theorem wordOfFields_of_word (w : Word32) :
    wordOfFields (rsv1Field w) (tlField w) (rsv0Field w) (opField w) = w := by
  unfold wordOfFields rsv1Field tlField rsv0Field opField
  rw [BitVec.extractLsb'_append_extractLsb'_eq_extractLsb' (by omega),
    BitVec.extractLsb'_append_extractLsb'_eq_extractLsb' (by omega),
    BitVec.extractLsb'_append_extractLsb'_eq_extractLsb' (by omega)]
  exact BitVec.extractLsb'_eq_self

theorem word_eq_iff_fields :
    w = v ↔ rsv1Field w = rsv1Field v ∧ tlField w = tlField v ∧ rsv0Field w = rsv0Field v ∧ opField w = opField v := by
  refine ⟨fun h => by simp [h], fun ⟨hrsv1, htl, hrsv0, hop⟩ => ?_⟩
  rw [← wordOfFields_of_word w, ← wordOfFields_of_word v, hrsv1, htl, hrsv0, hop]

/-- CMD[31:4] is `rsv1`, `tl` and `rsv0`. -/
theorem aboveOp_eq_append (w : Word32) : aboveOp w = rsv1Field w ++ tlField w ++ rsv0Field w := by
  unfold aboveOp rsv1Field tlField rsv0Field
  rw [BitVec.extractLsb'_append_extractLsb'_eq_extractLsb' (by omega),
    BitVec.extractLsb'_append_extractLsb'_eq_extractLsb' (by omega)]

/-- A word is fixed by CMD[31:4] and `op`. -/
theorem word_eq_iff_aboveOp : w = v ↔ aboveOp w = aboveOp v ∧ opField w = opField v := by
  refine ⟨fun h => by simp [h], fun ⟨habove, hop⟩ => ?_⟩
  rw [← wordOfFields_of_word w, ← wordOfFields_of_word v]
  unfold wordOfFields
  rw [← aboveOp_eq_append, ← aboveOp_eq_append, habove, hop]

/-! ### The decoder, one equation for each kind of opcode -/

theorem decode_of_op_one (h : opField w = 1) :
    decode w = if aboveOp w ≠ 0 then .error .reservedBits else .ok .init := by
  simp [decode, h]

theorem decode_of_op_two (h : opField w = 2) :
    decode w = if aboveOp w ≠ 0 then .error .reservedBits else .ok .block := by
  simp [decode, h]

theorem decode_of_op_three (h : opField w = 3) :
    decode w = if rsv1Field w ≠ 0 ∨ rsv0Field w ≠ 0 then .error .reservedBits else .ok (.final (tlField w).toNat) := by
  simp [decode, h]

theorem decode_of_op_unassigned (h : opField w = 0 ∨ 4 ≤ opField w) : decode w = .error .illegalOp := by
  obtain ⟨hone, htwo, hthree⟩ : opField w ≠ 1 ∧ opField w ≠ 2 ∧ opField w ≠ 3 := by bv_omega
  rw [decode, if_neg hone, if_neg htwo, if_neg hthree]

/-- Settles O18: each clause is one branch of the equation for its opcode. -/
theorem decoderReadsFields : Obligations.DecoderReadsFields := by
  intro w
  refine ⟨fun hop hrsv => ?_, fun hop hrsv => ?_, fun hop hrsv => ?_, fun hop hrsv => ?_, fun hop hrsv => ?_,
    fun hop hrsv1 hrsv0 => ?_, decode_of_op_unassigned⟩
  · rw [decode_of_op_one hop]
    exact if_pos hrsv
  · rw [decode_of_op_one hop]
    exact if_neg (not_not.2 hrsv)
  · rw [decode_of_op_two hop]
    exact if_pos hrsv
  · rw [decode_of_op_two hop]
    exact if_neg (not_not.2 hrsv)
  · rw [decode_of_op_three hop]
    exact if_pos hrsv
  · rw [decode_of_op_three hop]
    exact if_neg (not_or.2 ⟨not_not.2 hrsv1, not_not.2 hrsv0⟩)

/-! ### Which words decode to a command -/

/-- Every word that decodes, by its command. -/
theorem decode_ok_cases (h : decode w = .ok i) :
    (i = .init ∧ aboveOp w = 0 ∧ opField w = 1) ∨ (i = .block ∧ aboveOp w = 0 ∧ opField w = 2) ∨
    (i = .final (tlField w).toNat ∧ rsv1Field w = 0 ∧ rsv0Field w = 0 ∧ opField w = 3) := by
  unfold decode at h
  split_ifs at h with hone hrsv htwo hrsv hthree hrsv <;> cases h
  · exact .inl ⟨rfl, not_not.1 hrsv, hone⟩
  · exact .inr (.inl ⟨rfl, not_not.1 hrsv, htwo⟩)
  · obtain ⟨hrsv1, hrsv0⟩ := not_or.1 hrsv
    exact .inr (.inr ⟨rfl, not_not.1 hrsv1, not_not.1 hrsv0, hthree⟩)

theorem decode_eq_final_iff :
    decode w = .ok (.final l) ↔
      rsv1Field w = 0 ∧ rsv0Field w = 0 ∧ opField w = 3 ∧ (tlField w).toNat = l := by
  refine ⟨fun h => ?_, fun ⟨hrsv1, hrsv0, hop, htl⟩ => by simp [decode_of_op_three hop, hrsv1, hrsv0, htl]⟩
  rcases decode_ok_cases h with ⟨⟨⟩, -⟩ | ⟨⟨⟩, -⟩ | ⟨⟨⟩, hrsv1, hrsv0, hop⟩
  exact ⟨hrsv1, hrsv0, hop, rfl⟩

/-! ### The encoder -/

theorem toNat_wordOfFields_final (tl : BitVec 6) : (wordOfFields 0 tl 0 3).toNat = 3 + tl.toNat * 256 := by
  calc (wordOfFields 0 tl 0 3).toNat
    _ = tl.toNat <<< 8 ||| 3 := by
      rw [wordOfFields, BitVec.toNat_append, BitVec.toNat_append, BitVec.toNat_append]
      simp [← Nat.shiftLeft_add]
    _ = tl.toNat <<< 8 + 3 := (Nat.shiftLeft_add_eq_or_of_lt (by omega) _).symm
    _ = 3 + tl.toNat * 256 := by omega

/-- As a number, R163's `0x00000003 | (L << 8)` is R79's `0x00000003 + (L × 256)`. -/
theorem toNat_encode_final (hl : l ≤ 63) : (encode (.final l)).toNat = 3 + l * 256 := by
  calc (encode (.final l)).toNat
    _ = 3 ||| l <<< 8 := by
      rw [encode, BitVec.toNat_or, BitVec.toNat_shiftLeft, BitVec.toNat_ofNat, BitVec.toNat_ofNat,
        Nat.mod_eq_of_lt (show l < 2 ^ 32 by omega), Nat.mod_eq_of_lt (show l <<< 8 < 2 ^ 32 by omega)]
    _ = l <<< 8 + 3 := by rw [Nat.or_comm, Nat.shiftLeft_add_eq_or_of_lt (by omega)]
    _ = 3 + l * 256 := by omega

/-- The word of FINAL(L) holds L in `tl` and zeros in the reserved fields. -/
theorem encode_final (hl : l ≤ 63) : encode (.final l) = wordOfFields 0 (BitVec.ofNat 6 l) 0 3 := by
  apply BitVec.eq_of_toNat_eq
  rw [toNat_encode_final hl, toNat_wordOfFields_final, BitVec.toNat_ofNat, Nat.mod_eq_of_lt (by omega)]

/-! ### Decoding and encoding -/

/-- Settles O15, by the command: INIT and BLOCK have one word each, and the word of FINAL(L) is read field by field. -/
theorem decodeOfEncode : Obligations.DecodeOfEncode := by
  intro i hwf
  cases i with
  | init => decide
  | block => decide
  | final l =>
    have hl : l ≤ 63 := by simpa [Instr.wellFormed] using hwf
    rw [decode_eq_final_iff, encode_final hl]
    simpa using Nat.lt_succ_of_le hl

/-- Settles O16, by the branch of the decoder: the fields it has checked and read are those of the command's own word. -/
theorem encodeOfDecode : Obligations.EncodeOfDecode := by
  intro w i hdec
  have hwf := Machine.decode_wellFormed hdec
  refine ⟨hwf, ?_⟩
  rcases decode_ok_cases hdec with ⟨rfl, hrsv, hop⟩ | ⟨rfl, hrsv, hop⟩ | ⟨rfl, hrsv1, hrsv0, hop⟩
  · rw [word_eq_iff_aboveOp, hrsv, hop]
    decide
  · rw [word_eq_iff_aboveOp, hrsv, hop]
    decide
  · rw [encode_final (by simpa [Instr.wellFormed] using hwf), word_eq_iff_fields]
    simp [hrsv1, hrsv0, hop]

theorem decode_eq_ok_iff : decode w = .ok i ↔ i.wellFormed = true ∧ w = encode i :=
  ⟨fun h => (encodeOfDecode w i h).imp_right Eq.symm, fun ⟨hwf, hword⟩ => hword ▸ decodeOfEncode i hwf⟩

/-! ### Mask and match -/

/-- The bitwise and of two words, field by field. -/
theorem wordOfFields_and (rsv1 rsv1' : BitVec 18) (tl tl' : BitVec 6) (rsv0 rsv0' op op' : BitVec 4) :
    wordOfFields rsv1 tl rsv0 op &&& wordOfFields rsv1' tl' rsv0' op' =
      wordOfFields (rsv1 &&& rsv1') (tl &&& tl') (rsv0 &&& rsv0') (op &&& op') := by
  unfold wordOfFields
  rw [← BitVec.and_append, ← BitVec.and_append, ← BitVec.and_append]

/-- The mask of FINAL's row clears `tl` and keeps the other fields. -/
theorem and_finalMask (w : Word32) :
    w &&& 0xFFFFC0FF#32 = wordOfFields (rsv1Field w) 0 (rsv0Field w) (opField w) := by
  have hmask : 0xFFFFC0FF#32 = wordOfFields (BitVec.allOnes 18) 0 (BitVec.allOnes 4) (BitVec.allOnes 4) := by decide
  calc w &&& 0xFFFFC0FF#32
    _ = wordOfFields (rsv1Field w) (tlField w) (rsv0Field w) (opField w) &&& 0xFFFFC0FF#32 := by
      rw [wordOfFields_of_word]
    _ = wordOfFields (rsv1Field w) 0 (rsv0Field w) (opField w) := by
      rw [hmask, wordOfFields_and, BitVec.and_allOnes, BitVec.and_allOnes, BitVec.and_allOnes]
      simp

/-- A word decodes to some FINAL exactly when its fields but `tl` are those of FINAL's row. -/
theorem decode_final_iff_mask : (∃ l, decode w = .ok (.final l)) ↔ w &&& 0xFFFFC0FF#32 = 0x00000003#32 := by
  have hmatch : 0x00000003#32 = wordOfFields 0 0 0 3 := by decide
  rw [hmatch, and_finalMask, word_eq_iff_fields]
  simp [decode_eq_final_iff]

/-- Settles O17: the masks of INIT and BLOCK keep the whole word, and that of FINAL all but `tl`. -/
theorem decodeByMaskAndMatch : Obligations.DecodeByMaskAndMatch := by
  intro w
  have hall : w &&& 0xFFFFFFFF#32 = w := BitVec.and_allOnes
  rw [hall]
  refine ⟨decode_eq_ok_iff.trans (and_iff_right rfl), decode_eq_ok_iff.trans (and_iff_right rfl), decode_final_iff_mask,
    fun l hdec => ?_⟩
  obtain ⟨-, -, -, htl⟩ := decode_eq_final_iff.1 hdec
  exact htl.symm

/-- Settles O14: a finite table of words. -/
theorem decodeRepresentativeWords : Obligations.DecodeRepresentativeWords := by
  unfold Obligations.DecodeRepresentativeWords
  decide

end Sys2Proof
end

section
/-! What a command reads (30_encoding.md R77): the registers it leaves are a function of that and of the registers before. -/

namespace Sys2Proof.Machine

variable {c c' : Command} {a : Arch}

/-- The tail of FINAL(L) is made from lanes 0..L-1 alone. -/
theorem tail_laneBlock_congr {l : Nat} {din din' : BitVec 512} (hlanes : ∀ k, k < l → laneByte din' k = laneByte din k) :
    tail l (laneBlock din') = tail l (laneBlock din) := by
  refine List.ext_getElem (by simp [tail]) fun k hk _ => ?_
  have hkl : k < l ∧ k < 64 := by simpa [tail] using hk
  simp [tail, laneBlock_getElem, hlanes k hkl.1]

/-- Two samples of one word leave the same registers when CHECK and the command's effect agree on them. -/
theorem archAfter_congr (hword : c'.cmdWord = c.cmdWord)
    (hcheck : check (decode c.cmdWord) c'.len a = check (decode c.cmdWord) c.len a)
    (heffect : ∀ i, decode c.cmdWord = .ok i → effectArch i c' a = effectArch i c a) :
    archAfter c' a = archAfter c a := by
  unfold archAfter
  rw [hword, hcheck]
  cases hdec : decode c.cmdWord with
  | error code => rfl
  | ok i => simp only [heffect i hdec]

/-- If the registers after a command agree, so does all that is seen of it: once it completes, `busy` is 0. -/
theorem transact_congr {s : State} (harch : archAfter c' s.arch = archAfter c s.arch) :
    ∃ t t', transact c s = .next t ∧ transact c' s = .next t' ∧ t'.arch = t.arch ∧ t'.statusPort = t.statusPort ∧
      t'.digestPort = t.digestPort ∧ t'.countPort = t.countPort := by
  obtain ⟨t, ht, arch, busy, -⟩ := complete_summary { s with command := c }
  obtain ⟨t', ht', arch', busy', -⟩ := complete_summary { s with command := c' }
  have heq : t'.arch = t.arch := by rw [arch, arch']; exact harch
  exact ⟨t, t', ht, ht', heq, ports_eq_of_arch_eq busy busy' heq⟩

/-- Settles O27, by what the word decodes to: CHECK reads LEN for FINAL alone, and an effect reads DIN for BLOCK and the
tail and LEN for FINAL. -/
theorem unreadOperandsIgnored : Obligations.UnreadOperandsIgnored := by
  intro s c c' hword hread
  refine transact_congr (archAfter_congr hword ?_ fun i hdec => ?_)
  · cases hdec : decode c.cmdWord with
    | error code => rfl
    | ok i =>
      cases i with
      | init => rfl
      | block => rfl
      | final l =>
        rw [hdec] at hread
        rw [hread.1]
  · rw [hdec] at hread
    cases i with
    | init => rfl
    | block => simp only [effectArch, hread]
    | final l =>
      obtain ⟨hlen, hlanes⟩ := hread
      simp only [effectArch, finalAcc, finalPadding, hlen, tail_laneBlock_congr hlanes]

end Sys2Proof.Machine
end

section
/-! The assembler (30_encoding.md R79, R80). -/

namespace Sys2Proof.Machine

/-! ### Accepted and rejected lines -/

variable {w l m : Nat} {bytes : List Byte}

theorem assembleLine_block (h : bytes.length = 64) : assembleLine (.block bytes) = some [Command.block bytes] := by
  simp [assembleLine, h]

theorem assembleLine_final (hl : l ≤ 63) (hlen : bytes.length = l) (hm : m < 2 ^ 64) :
    assembleLine (.final l m bytes) = some [Command.final l m bytes] :=
  if_pos ⟨hl, hlen, hm⟩

theorem assembleLine_raw_none (hw : w < 2 ^ 32) (hm : m < 2 ^ 64) :
    assembleLine (.raw w m none) = some [⟨BitVec.ofNat 32 w, 0, BitVec.ofNat 64 m⟩] :=
  if_pos ⟨hw, hm⟩

theorem assembleLine_raw_some (hw : w < 2 ^ 32) (hm : m < 2 ^ 64) (hlen : bytes.length = 64) :
    assembleLine (.raw w m (some bytes)) = some [⟨BitVec.ofNat 32 w, packLanes bytes, BitVec.ofNat 64 m⟩] :=
  if_pos ⟨hw, hm, hlen⟩

/-- The word of a FINAL line is the encoding of its command. -/
theorem Command.final_cmdWord (hl : l ≤ 63) (m : Nat) (bytes : List Byte) :
    (Command.final l m bytes).cmdWord = encode (.final l) := by
  apply BitVec.eq_of_toNat_eq
  rw [toNat_encode_final hl, Command.final, BitVec.toNat_ofNat, Nat.mod_eq_of_lt (by omega)]

/-- A number in range is held as it is. -/
theorem toNat_ofNat_of_lt {n v : Nat} (h : v < 2 ^ n) : (BitVec.ofNat n v).toNat = v := by
  rw [BitVec.toNat_ofNat, Nat.mod_eq_of_lt h]

/-- Settles O56: `laneBlock_packLanes` reads the bytes back, and `decodeOfEncode` the word of FINAL. -/
theorem assemblerPlacesOperands : Obligations.AssemblerPlacesOperands := by
  refine ⟨rfl, fun bytes => ⟨fun hlen => if_neg hlen, fun hlen => ?_⟩, fun l m bytes => ⟨fun hbad => if_neg ?_,
    fun hl hlen hm => ?_⟩⟩
  · exact ⟨_, assembleLine_block hlen, rfl, rfl, laneBlock_packLanes bytes⟩
  · omega
  · refine ⟨_, assembleLine_final hl hlen hm, ?_, toNat_ofNat_of_lt hm, laneBlock_packLanes bytes⟩
    rw [Command.final_cmdWord hl]
    exact decodeOfEncode _ (by simpa [Instr.wellFormed] using hl)

/-- Settles O58: the guards of the two RAW forms and of HASH, and `laneBlock_packLanes` for the bytes. -/
theorem assemblerPlacesRawOperands : Obligations.AssemblerPlacesRawOperands := by
  refine ⟨fun w m => ⟨fun hbad => ⟨if_neg ?_, fun bytes => if_neg ?_⟩, fun bytes hlen => if_neg ?_,
    fun hw hm => ⟨?_, fun bytes hlen => ?_⟩⟩, fun m hlong => if_neg (Nat.not_le.2 hlong)⟩
  · omega
  · omega
  · exact fun ⟨_, _, h⟩ => hlen h
  · exact ⟨_, assembleLine_raw_none hw hm, toNat_ofNat_of_lt hw, rfl, toNat_ofNat_of_lt hm⟩
  · exact ⟨_, assembleLine_raw_some hw hm hlen, toNat_ofNat_of_lt hw, toNat_ofNat_of_lt hm,
      laneBlock_packLanes bytes⟩

/-! ### HASH -/

/-- The bytes of a complete block are a slice of the message. -/
theorem blockAt_toList {m : List Byte} {k : Nat} (h : 64 * k + 64 ≤ m.length) :
    (blockAt m k).toList = (m.drop (64 * k)).take 64 := by
  refine List.ext_getElem (by simp; omega) fun i hi _ => ?_
  have hin : 64 * k + i < m.length := by simp at hi; omega
  simp [blockAt_getElem, hin]

/-- Lines that assemble one by one, assembled together. -/
theorem mapM_assembleLine {α : Type} {ls : List α} {line : α → AsmLine} {cs : α → List Command}
    (h : ∀ x ∈ ls, assembleLine (line x) = some (cs x)) :
    (ls.map line).mapM assembleLine = some (ls.map cs) := by
  induction ls with
  | nil => rfl
  | cons x ls ih =>
    rw [List.map_cons, List.mapM_cons, h x (by simp), ih fun y hy => h y (by simp [hy])]
    rfl

/-- The BLOCK lines of a message assemble to the commands of its complete blocks. -/
theorem assemble_blockLines (m : List Byte) :
    ((List.range (m.length >>> 6)).map fun k => AsmLine.block ((m.drop (64 * k)).take 64)).mapM assembleLine =
      some ((completeBlocks m).map fun b => [Command.block b.toList]) := by
  rw [completeBlocks, List.map_map]
  refine mapM_assembleLine fun k hk => ?_
  have hin : 64 * k + 64 ≤ m.length := by
    rw [List.mem_range, Nat.shiftRight_eq_div_pow] at hk
    omega
  rw [Function.comp_apply, blockAt_toList hin]
  exact assembleLine_block (by simp; omega)

/-- The FINAL line of a message within the limit assembles to the last command of HASH. -/
theorem assemble_finalLine {m : List Byte} (h : m.length ≤ maxMsgBytes) :
    assembleLine (.final (m.length &&& 63) m.length (m.drop (64 * (m.length >>> 6)))) =
      some [Command.final (m.length &&& 63) m.length (tailBytes m)] := by
  have hmod : m.length &&& 63 = m.length % 64 := Nat.and_two_pow_sub_one_eq_mod m.length 6
  have hdiv : m.length >>> 6 = m.length / 64 := Nat.shiftRight_eq_div_pow m.length 6
  unfold maxMsgBytes at h
  exact assembleLine_final (by omega) (by simp; omega) (by omega)

/-- Settles O59: the lines assemble to the commands of HASH, one each, in order. -/
theorem hashExpandsToLines : Obligations.HashExpandsToLines := by
  intro m hm
  refine ⟨(hashCommands m).map fun c => [c], ?_, ?_⟩
  · rw [List.mapM_append, List.mapM_cons, assemble_blockLines, List.mapM_cons, assemble_finalLine hm]
    simp [assembleLine, hashCommands]
  · rw [← List.flatMap_def, List.flatMap_singleton']
    exact if_pos hm

end Sys2Proof.Machine
end

section
/-! ROTL32 (40_rotate.md): the bits of the formula of R100 on the domain 1..31, and what R103 says of it, bit by bit. -/

namespace Sys2Proof.Machine

variable {x : Word32} {n : Nat}

/-! ### When ROTL32 has a value -/

theorem rotl32_of_domain (x : Word32) (hn : 1 ≤ n ∧ n ≤ 31) : rotl32 x n = .ok (rotateFormula x n) := if_pos hn

theorem rotl32_of_not_domain (x : Word32) (hn : ¬(1 ≤ n ∧ n ≤ 31)) : rotl32 x n = .error (.rotateAmount n) := if_neg hn

theorem rotAmountNat_domain (r : RotAmount) : 1 ≤ rotAmountNat r ∧ rotAmountNat r ≤ 31 := by
  cases r <;> decide

/-- At a wired amount ROTL32 gives what the datapath gives. -/
theorem rotl32_rotAmountNat (x : Word32) (r : RotAmount) : rotl32 x (rotAmountNat r) = .ok (rotl x r) :=
  rotl32_of_domain x (rotAmountNat_domain r)

/-- Settles O40: the domain of `rotl32`, and the wired amounts inside it. -/
theorem rotateRefusesOtherAmounts : Obligations.RotateRefusesOtherAmounts :=
  ⟨fun x n hn => rotl32_of_not_domain x (by omega),
    fun x => ⟨rotl32_rotAmountNat x .one, rotl32_rotAmountNat x .five, rotl32_rotAmountNat x .thirty⟩⟩

/-! ### Bit by bit -/

/-- The right shift of R100 fills the bits below `n` and no others. -/
theorem getLsbD_ushiftRight_sub (x : Word32) (hn : n ≤ 32) (i : Nat) :
    (x >>> (32 - n)).getLsbD i = (decide (i < n) && x.getLsbD (32 - n + i)) := by
  rw [BitVec.getLsbD_ushiftRight]
  by_cases hlow : i < n
  · simp [hlow]
  · rw [BitVec.getLsbD_of_ge _ _ (by omega)]
    simp [hlow]

/-- The bits below `n` come from the right shift, those from `n` up from the left shift. -/
theorem getLsbD_rotateFormula {i : Nat} (hn : 1 ≤ n ∧ n ≤ 31) (hi : i < 32) :
    (rotateFormula x n).getLsbD i = x.getLsbD ((i + 32 - n) % 32) := by
  rw [rotateFormula, BitVec.getLsbD_or, BitVec.getLsbD_shiftLeft, getLsbD_ushiftRight_sub x (by omega)]
  by_cases hlow : i < n
  · have hindex : (i + 32 - n) % 32 = 32 - n + i := by omega
    simp [hlow, hindex]
  · have hindex : (i + 32 - n) % 32 = i - n := by omega
    simp [hlow, hi, hindex]

/-- Settles O39: `getLsbD_rotateFormula` on the value that `rotl32` answers. -/
theorem rotateMovesBits : Obligations.RotateMovesBits := fun x _ hlo hhi =>
  ⟨_, rotl32_of_domain x ⟨hlo, hhi⟩, fun _ hi => getLsbD_rotateFormula ⟨hlo, hhi⟩ hi⟩

/-! ### The identities of R103 -/

/-- The two parts of R100 share no bit. -/
theorem shiftLeft_and_ushiftRight_eq_zero (x : Word32) (hn : n ≤ 32) : (x <<< n) &&& (x >>> (32 - n)) = 0#32 := by
  refine BitVec.eq_of_getLsbD_eq fun i hi => ?_
  rw [BitVec.getLsbD_and, BitVec.getLsbD_shiftLeft, getLsbD_ushiftRight_sub x hn]
  by_cases hlow : i < n <;> simp [hlow]

/-- Parts that share no bit add without a carry. -/
theorem rotateFormula_eq_add (x : Word32) (hn : n ≤ 32) : rotateFormula x n = (x <<< n) + (x >>> (32 - n)) :=
  (BitVec.add_eq_or_of_and_eq_zero _ _ (shiftLeft_and_ushiftRight_eq_zero x hn)).symm

theorem rotateFormula_rotateFormula_sub (x : Word32) (hn : 1 ≤ n ∧ n ≤ 31) :
    rotateFormula (rotateFormula x n) (32 - n) = x := by
  refine BitVec.eq_of_getLsbD_eq fun i hi => ?_
  have hindex : ((i + 32 - (32 - n)) % 32 + 32 - n) % 32 = i := by omega
  rw [getLsbD_rotateFormula (by omega) hi, getLsbD_rotateFormula hn (Nat.mod_lt _ (by decide)), hindex]

theorem rotateFormula_xor (x y : Word32) (hn : 1 ≤ n ∧ n ≤ 31) :
    rotateFormula (x ^^^ y) n = rotateFormula x n ^^^ rotateFormula y n :=
  BitVec.eq_of_getLsbD_eq fun i hi => by simp only [BitVec.getLsbD_xor, getLsbD_rotateFormula hn hi]

theorem rotateFormula_and (x y : Word32) (hn : 1 ≤ n ∧ n ≤ 31) :
    rotateFormula (x &&& y) n = rotateFormula x n &&& rotateFormula y n :=
  BitVec.eq_of_getLsbD_eq fun i hi => by simp only [BitVec.getLsbD_and, getLsbD_rotateFormula hn hi]

theorem rotateFormula_or (x y : Word32) (hn : 1 ≤ n ∧ n ≤ 31) :
    rotateFormula (x ||| y) n = rotateFormula x n ||| rotateFormula y n :=
  BitVec.eq_of_getLsbD_eq fun i hi => by simp only [BitVec.getLsbD_or, getLsbD_rotateFormula hn hi]

/-- Settles O41: `rotl32` answers the formula at n and at 32 - n, and the identities are the formula's. -/
theorem rotateIdentities : Obligations.RotateIdentities := by
  intro x y n hlo hhi
  have hn : 1 ≤ n ∧ n ≤ 31 := ⟨hlo, hhi⟩
  refine ⟨_, _, rotl32_of_domain x hn, rotl32_of_domain y hn, rotateFormula_eq_add x (by omega), ?_, ?_, ?_, ?_⟩
  · rw [rotl32_of_domain _ (by omega), rotateFormula_rotateFormula_sub x hn]
  · rw [rotl32_of_domain _ hn, rotateFormula_xor x y hn]
  · rw [rotl32_of_domain _ hn, rotateFormula_and x y hn]
  · rw [rotl32_of_domain _ hn, rotateFormula_or x y hn]

end Sys2Proof.Machine
end

section
/-! PAD on and outside its domain (41_padding.md R110 to R117): its bytes piece by piece, the length field as a
big-endian number, and the source's loop that writes it. -/

namespace Sys2Proof.Machine

variable {t : List Byte} {l m : Nat}

/-! ### The bytes of the padding -/

theorem padByte_of_lt {i : Nat} (hi : i < l) : padByte t l m i = t.getD i 0 := by
  simp [padByte, hi]

theorem padByte_marker : padByte t l m l = 0x80 := by
  simp [padByte]

theorem padByte_zero {i : Nat} (hlo : l < i) (hhi : i < padLength l - 8) : padByte t l m i = 0 := by
  simp [padByte, show ¬ i < l by omega, show i ≠ l by omega, hhi]

/-- The marker and the length field always fit after the tail (R117). -/
theorem add_nine_le_padLength (hl : l ≤ 63) : l + 9 ≤ padLength l := by
  rcases padLength_cases l with ⟨hn, hshort⟩ | ⟨hn, hlong⟩ <;> omega

theorem padByte_lengthField (hl : l ≤ 63) (k : Nat) : padByte t l m (padLength l - 8 + k) = lengthByte m k := by
  have hfit := add_nine_le_padLength hl
  simp [padByte, show ¬ padLength l - 8 + k < l by omega, show padLength l - 8 + k ≠ l by omega]

/-- Settles O42: byte i of PAD's answer is `padByte` at i, and each range of i is one of its cases. -/
theorem paddingLayout : Obligations.PaddingLayout := by
  intro t l m ht hl hm
  have hfit := add_nine_le_padLength hl
  have hbyte : ∀ i, i < padLength l →
      ((List.range (padLength l)).map (padByte t l m))[i]? = some (padByte t l m i) := fun i hi => by simp [hi]
  refine ⟨_, _, pad_of_domain ⟨ht, hl, hm⟩, rfl, by simp, fun i hi => ?_, ?_, fun i hlo hhi => ?_, by omega,
    fun k hk => ?_⟩
  · rw [hbyte i (by omega), padByte_of_lt hi]
    simp [ht, hi]
  · rw [hbyte l (by omega), padByte_marker]
    rfl
  · rw [hbyte i (by omega), padByte_zero (by omega) (by omega)]
    rfl
  · rw [hbyte _ (by omega), padByte_lengthField hl]
    rfl

/-- PAD's bytes end to end: the tail, the marker, the zeros and the length field. -/
theorem map_padByte_eq_append (ht : t.length = l) (hl : l ≤ 63) :
    (List.range (padLength l)).map (padByte t l m) =
      (t ++ 0x80 :: List.replicate (padLength l - l - 9) 0) ++ (List.range 8).map (lengthByte m) := by
  have hfit := add_nine_le_padLength hl
  have htail : (List.range l).map (padByte t l m) = t := by
    refine List.ext_getElem (by simp [ht]) fun i _ hi => ?_
    have hlt : i < l := by omega
    simp [padByte_of_lt hlt, hi]
  have hzeros : (List.range (padLength l - l - 9)).map (fun i => padByte t l m (l + (1 + i))) =
      List.replicate (padLength l - l - 9) 0 :=
    (List.map_congr_left fun i hi => by
      have hlt := List.mem_range.1 hi
      exact padByte_zero (by omega) (by omega)).trans (by simp)
  have hfield : (List.range 8).map (fun k => padByte t l m (l + (1 + (padLength l - l - 9 + k)))) =
      (List.range 8).map (lengthByte m) :=
    List.map_congr_left fun k _ => by
      rw [show l + (1 + (padLength l - l - 9 + k)) = padLength l - 8 + k by omega, padByte_lengthField hl]
  have hrange : List.range (padLength l) = List.range (l + (1 + (padLength l - l - 9 + 8))) := by
    congr 1
    omega
  rw [hrange]
  simp only [List.range_add, List.map_append, List.map_map, Function.comp_def, htail, hzeros, hfield]
  simp [padByte_marker]

/-! ### Big-endian numbers -/

/-- The low k bytes of v, the most significant one first. -/
def bigEndian : (k v : Nat) → List Byte
  | 0, _ => []
  | k + 1, v => bigEndian k (v / 256) ++ [BitVec.ofNat 8 v]

@[simp] theorem bigEndian_length (k v : Nat) : (bigEndian k v).length = k := by
  induction k generalizing v with
  | zero => rfl
  | succ k ih => simp [bigEndian, ih]

theorem bigEndian_zero (k : Nat) : bigEndian k 0 = List.replicate k 0 := by
  induction k with
  | zero => rfl
  | succ k ih => simp [bigEndian, ih, List.replicate_succ']

/-- Read back as a number, the low k bytes of v are v modulo 256^k. -/
theorem bigEndian_foldl (k v : Nat) :
    (bigEndian k v).foldl (fun v b => v * 256 + b.toNat) 0 = v % 256 ^ k := by
  induction k generalizing v with
  | zero => simp [bigEndian, Nat.mod_one]
  | succ k ih =>
    rw [bigEndian, List.foldl_append, ih]
    simp [Nat.pow_succ', Nat.mod_mul]
    omega

/-- The field `(M * 8)[63-8k : 56-8k]` is a byte of the number M * 8 itself: the word it is cut from drops none of its
low 64 bits. -/
theorem lengthByte_eq_ofNat_div {k : Nat} (hk : k < 8) :
    lengthByte m k = BitVec.ofNat 8 (m * 8 / 2 ^ (56 - 8 * k)) := by
  unfold lengthByte
  refine BitVec.eq_of_toNat_eq ?_
  simp [Nat.shiftRight_eq_div_pow]
  interval_cases k <;> omega

/-- The length field of R115 is the big-endian number M * 8. -/
theorem map_lengthByte_eq_bigEndian : (List.range 8).map (lengthByte m) = bigEndian 8 (m * 8) := by
  have hbytes : (List.range 8).map (lengthByte m) =
      (List.range 8).map fun k => BitVec.ofNat 8 (m * 8 / 2 ^ (56 - 8 * k)) :=
    List.map_congr_left fun k hk => lengthByte_eq_ofNat_div (List.mem_range.1 hk)
  rw [hbytes]
  simp [bigEndian, List.range_succ, Nat.div_div_eq_div_mul]

/-- Settles O43: the last 8 bytes are the big-endian number M * 8, which is below 256^8. -/
theorem paddingEndsInBitLength : Obligations.PaddingEndsInBitLength := by
  intro t l m ht hl hm
  have hfit := add_nine_le_padLength hl
  refine ⟨_, _, pad_of_domain ⟨ht, hl, hm⟩, hfit, ?_⟩
  rw [map_padByte_eq_append ht hl, List.drop_left' (by simp [ht]; omega), map_lengthByte_eq_bigEndian, bigEndian_foldl]
  exact Nat.mod_eq_of_lt (by omega)

/-! ### The source's loop -/

/-- Started on the last of k zero bytes, the loop leaves the low k bytes of v in their place. Where it stops early, v is
0 and the zeros it skips are the bytes that are missing. -/
theorem lengthLoop_append_replicate (k v : Nat) (before after : List Byte) :
    lengthLoop k v (before.length + k - 1) (before ++ List.replicate k 0 ++ after) =
      before ++ bigEndian k v ++ after := by
  induction k generalizing v after with
  | zero => simp [lengthLoop, bigEndian]
  | succ k ih =>
    rw [lengthLoop]
    split
    · next hv => rw [hv, bigEndian_zero]
    · have hset : (before ++ List.replicate (k + 1) 0 ++ after).set (before.length + k) (BitVec.ofNat 8 v) =
          before ++ List.replicate k 0 ++ BitVec.ofNat 8 v :: after := by
        simp [List.replicate_succ']
      rw [show before.length + (k + 1) - 1 = before.length + k by omega, hset, ih]
      simp [bigEndian]

/-- Settles O45: the loop starts on the last of the 8 zeros after tail, marker and zeros, and writes there the
big-endian number that PAD's rule has in their place. -/
theorem paddingLoopGivesSameBytes : Obligations.PaddingLoopGivesSameBytes := by
  intro t l m ht hl hm
  refine ⟨padLength l, ?_⟩
  have hfit := add_nine_le_padLength hl
  have hzeros : List.replicate (padLength l - l - 1) (0 : Byte) =
      List.replicate (padLength l - l - 9) 0 ++ List.replicate 8 0 := by
    rw [List.replicate_append_replicate]
    congr 1
    omega
  have hloop := lengthLoop_append_replicate 8 (m * 8) (t ++ 0x80 :: List.replicate (padLength l - l - 9) 0) []
  have hstart : (t ++ 0x80 :: List.replicate (padLength l - l - 9) (0 : Byte)).length + 8 - 1 = padLength l - 1 := by
    simp [ht]
    omega
  rw [pad_of_domain ⟨ht, hl, hm⟩, map_padByte_eq_append ht hl, map_lengthByte_eq_bigEndian, padByLoop, hzeros]
  rw [hstart] at hloop
  simpa using hloop.symm

/-! ### Outside the domain -/

theorem pad_of_not_domain (h : ¬ PadDomain t l m) : pad t l m = .error (.padOperands l m) := if_neg h

/-- Settles O44: operands as described are outside PAD's domain. -/
theorem paddingRefusesOutsideDomain : Obligations.PaddingRefusesOutsideDomain := by
  refine fun t l m houtside => pad_of_not_domain fun ⟨ht, hl, hm⟩ => ?_
  unfold maxMsgBytes at hm
  omega

end Sys2Proof.Machine
end

section
/-! COMPRESS (42_compressor.md R131 to R137, R139 to R141): the schedule word by word, the mixing functions, the rounds
one by one and as a recurrence in one variable, and the schedule in a 16-word window. -/

namespace Sys2Proof.Machine

variable {t : Nat}

/-! ### The schedule -/

/-- An expansion of the packed words holds the schedule's words. -/
theorem getD_expand_packedWords (b : Block) {k i : Nat} (hk : k ≤ 64) (hi : i < 16 + k) :
    (expand k (packedWords b)).getD i 0 = (schedule b)[i] := by
  rw [List.getD_eq_getElem?_getD, ← schedule_getElem?_of_le b hk hi, Vector.getElem?_toList,
    Vector.getElem?_eq_getElem (by omega), Option.getD_some]

/-- Word i was the last one when `expand` added it, so it is `nextWord` of the words before it. -/
theorem schedule_getElem_expandWord (b : Block) {i : Nat} (hlo : 16 ≤ i) (hhi : i < 80) :
    (schedule b)[i] =
      expandWord (schedule b)[i - 3] (schedule b)[i - 8] (schedule b)[i - 14] (schedule b)[i - 16] := by
  obtain ⟨k, rfl⟩ := Nat.exists_eq_add_of_le hlo
  have hlen : (expand k (packedWords b)).length = 16 + k := by rw [expand_length, packedWords_length]
  have hlast : (schedule b)[16 + k] = nextWord (expand k (packedWords b)) := by
    rw [← getD_expand_packedWords b (k := k + 1) (by omega) (by omega), expand_succ, ← hlen]
    simp
  rw [hlast, nextWord, hlen]
  iterate 4 rw [getD_expand_packedWords b (by omega) (by omega)]

/-- Settles O46: the packed words as in `schedule_getElem_packed`, the others by `schedule_getElem_expandWord`. -/
theorem scheduleWords : Obligations.ScheduleWords := by
  refine fun b => ⟨fun j hj => schedule_getElem_packed b hj, fun i hlo hhi => ?_⟩
  rw [schedule_getElem_expandWord b hlo hhi]
  exact rotl32_rotAmountNat _ .one

/-! ### The mixing functions -/

/-- In each row of the table of R134 the group is t / 20. -/
theorem roundFn_of_group {g : Nat} (hg : t / 20 = g) (b c d : Word32) :
    roundFn t b c d = (mix g b c d, roundConst g) := by
  rw [roundFn, hg]

/-- Settles O47: the four rows are the groups 0 to 3. -/
theorem roundFunctionTable : Obligations.RoundFunctionTable := fun _ b c d =>
  ⟨fun _ => roundFn_of_group (g := 0) (by omega) b c d, fun _ _ => roundFn_of_group (g := 1) (by omega) b c d,
    fun _ _ => roundFn_of_group (g := 2) (by omega) b c d, fun _ _ => roundFn_of_group (g := 3) (by omega) b c d⟩

/-- A bit of group 0's result: b's bit chooses between c's and d's. -/
theorem getLsbD_mix_zero (b c d : Word32) (i : Nat) :
    (mix 0 b c d).getLsbD i = if b.getLsbD i then c.getLsbD i else d.getLsbD i := by
  by_cases hi : i < 32
  · simp only [mix, BitVec.getLsbD_xor, BitVec.getLsbD_and, BitVec.getLsbD_not, hi]
    cases b.getLsbD i <;> simp
  · simp [BitVec.getLsbD_of_ge _ _ (Nat.le_of_not_lt hi)]

theorem getLsbD_parity (b c d : Word32) (i : Nat) :
    (b ^^^ c ^^^ d).getLsbD i = (b.getLsbD i ^^ c.getLsbD i ^^ d.getLsbD i) := by
  rw [BitVec.getLsbD_xor, BitVec.getLsbD_xor]

/-- b selects the bits of one part and ~b those of the other. -/
theorem and_and_not_and_eq_zero (b c d : Word32) : (b &&& c) &&& (~~~b &&& d) = 0 := by
  refine BitVec.eq_of_getLsbD_eq fun i _ => ?_
  cases hb : b.getLsbD i <;> simp [hb]

theorem mix_zero_eq_or (b c d : Word32) : mix 0 b c d = (b &&& c) ||| (~~~b &&& d) := by
  refine BitVec.eq_of_getLsbD_eq fun i hi => ?_
  simp only [getLsbD_mix_zero, BitVec.getLsbD_or, BitVec.getLsbD_and, BitVec.getLsbD_not, hi]
  cases b.getLsbD i <;> simp

/-- Of the three ANDs exactly one or all three have a bit that any of them has. -/
theorem mix_two_eq_or (b c d : Word32) : mix 2 b c d = (b &&& c) ||| (b &&& d) ||| (c &&& d) := by
  refine BitVec.eq_of_getLsbD_eq fun i _ => ?_
  cases hb : b.getLsbD i <;> cases hc : c.getLsbD i <;> simp [mix, hb, hc]

/-- Settles O49: the identities of R140, each shown bit by bit. -/
theorem mixingIdentities : Obligations.MixingIdentities := fun b c d =>
  ⟨and_and_not_and_eq_zero b c d, mix_zero_eq_or b c d, getLsbD_mix_zero b c d, mix_two_eq_or b c d,
    fun i => ⟨getLsbD_parity b c d i, getLsbD_parity b c d i⟩⟩

/-! ### The rounds -/

/-- Settles O48: `workAfter` starts from H, and `workAfter_succ` is one round of R135. -/
theorem compressRunsEightyRounds : Obligations.CompressRunsEightyRounds := by
  refine fun h b => ⟨workAfter_zero h b, ?_, rfl⟩
  rintro t ht v rfl
  exact ⟨_, _, rotl32_rotAmountNat _ .five, rotl32_rotAmountNat _ .thirty, workAfter_succ h b ht⟩

theorem recurrenceA_add_four (h : Acc) (b : Block) (n : Nat) : recurrenceA h b (n + 4) = (workAfter h b n).a := by
  cases n with
  | zero => rw [workAfter_zero]; rfl
  | succ n => rfl

/-- The values of `a` before round 0 in c, d and e are H[2], H[3] and H[4] rotated by 2, which 30 more takes back. -/
theorem rotl_thirty_rotateFormula_two (x : Word32) : rotl (rotateFormula x 2) .thirty = x :=
  rotateFormula_rotateFormula_sub x (by decide)

/-- The working variables in terms of the values of `a` (42_compressor.md R141). -/
theorem workAfter_eq_recurrenceA (h : Acc) (b : Block) {n : Nat} (hn : n ≤ 80) :
    workAfter h b n =
      ⟨recurrenceA h b (n + 4), recurrenceA h b (n + 3), rotl (recurrenceA h b (n + 2)) .thirty,
        rotl (recurrenceA h b (n + 1)) .thirty, rotl (recurrenceA h b n) .thirty⟩ := by
  induction n with
  | zero => simp only [workAfter_zero, Acc.toWork, recurrenceA, rotl_thirty_rotateFormula_two]
  | succ n ih =>
    have ha := recurrenceA_add_four h b (n + 1)
    rw [workAfter_succ h b (by omega), ih (by omega)] at ha ⊢
    rw [ha]
    rfl

/-- Settles O50: the components of `workAfter_eq_recurrenceA`. -/
theorem roundsMakeOneNewValue : Obligations.RoundsMakeOneNewValue := by
  intro h b n hn
  rw [workAfter_eq_recurrenceA h b hn]
  exact ⟨rfl, rfl, rotl32_rotAmountNat _ .thirty, rotl32_rotAmountNat _ .thirty, rotl32_rotAmountNat _ .thirty⟩

/-! ### The 16-word window -/

/-- The words the window holds before round t: W[0..15] while t ≤ 16, and W[t-16 .. t-1] from then on. -/
def windowAt (b : Block) (t : Nat) : List Word32 := ((schedule b).toList.drop (t - 16)).take 16

theorem windowAt_eq_packedWords (b : Block) (ht : t ≤ 16) : windowAt b t = packedWords b := by
  refine List.ext_getElem? fun i => ?_
  rw [windowAt, Nat.sub_eq_zero_of_le ht, List.drop_zero, List.getElem?_take]
  split
  · next hi => rw [schedule_getElem?_of_le b (Nat.zero_le 64) hi, expand]
  · next hi => rw [List.getElem?_eq_none (by rw [packedWords_length]; omega)]

theorem getD_windowAt (b : Block) (ht : t ≤ 80) {i j : Nat} (hj : j < 16) (hi : t - 16 + j = i) :
    (windowAt b t).getD j 0 = (schedule b)[i] := by
  subst hi
  rw [List.getD_eq_getElem?_getD, windowAt, List.getElem?_take_of_lt hj, List.getElem?_drop, Vector.getElem?_toList,
    Vector.getElem?_eq_getElem (by omega), Option.getD_some]

/-- From round 16 on the window moves by one word. -/
theorem windowAt_succ (b : Block) (hlo : 16 ≤ t) (hhi : t < 80) :
    windowAt b (t + 1) = (windowAt b t).tail ++ [(schedule b)[t]] := by
  have hnext : t + 1 - 16 = t - 16 + 1 := by omega
  have hindex : t - 16 + 1 + 15 = t := by omega
  have hfit : 15 < ((schedule b).toList.drop (t - 16 + 1)).length := by
    rw [List.length_drop, Vector.length_toList]
    omega
  rw [windowAt, windowAt, hnext, ← List.drop_one, List.drop_take, List.drop_drop,
    List.take_succ_eq_append_getElem hfit]
  simp only [List.getElem_drop, Vector.getElem_toList, hindex]

/-- A round on the window reads W[t] there, or computes it from the words there. -/
theorem windowRound_windowAt (b : Block) (ht : t < 80) (v : Work) :
    windowRound t (windowAt b t, v) = (windowAt b (t + 1), round t (schedule b)[t] v) := by
  unfold windowRound
  split
  · next hlo =>
    have hread : (windowAt b t).getD t 0 = (schedule b)[t] := getD_windowAt b ht.le hlo (by omega)
    have hkeep : windowAt b (t + 1) = windowAt b t := by
      rw [windowAt_eq_packedWords b hlo, windowAt_eq_packedWords b hlo.le]
    simp only [hread, hkeep]
  · next hlo =>
    have hcompute : expandWord ((windowAt b t).getD 13 0) ((windowAt b t).getD 8 0) ((windowAt b t).getD 2 0)
        ((windowAt b t).getD 0 0) = (schedule b)[t] := by
      rw [schedule_getElem_expandWord b (by omega) ht, getD_windowAt b ht.le (i := t - 3) (by decide) (by omega),
        getD_windowAt b ht.le (i := t - 8) (by decide) (by omega),
        getD_windowAt b ht.le (i := t - 14) (by decide) (by omega),
        getD_windowAt b ht.le (i := t - 16) (by decide) (by omega)]
    simp only [hcompute, windowAt_succ b (Nat.le_of_not_lt hlo) ht]

/-- Rounds on the window and rounds on the whole schedule go in step. -/
theorem foldl_windowRound (h : Acc) (b : Block) {n : Nat} (hn : n ≤ 80) :
    (List.range n).foldl (fun s t => windowRound t s) (packedWords b, h.toWork) = (windowAt b n, workAfter h b n) := by
  induction n with
  | zero => rw [windowAt_eq_packedWords b (Nat.zero_le 16), workAfter_zero]; rfl
  | succ n ih =>
    rw [List.range_succ, List.foldl_append, ih (by omega), workAfter_succ h b (by omega)]
    exact windowRound_windowAt b (by omega) _

/-- Settles O51: after 80 rounds both have the same working variables to add into H. -/
theorem windowScheduleCompressesAlike : Obligations.WindowScheduleCompressesAlike := by
  intro h b
  rw [compressWindow, foldl_windowRound h b (Nat.le_refl 80), compress]

end Sys2Proof.Machine
end

section
/-! EXECUTE (43_commands.md R160) and the three commands it runs (R161 to R164): what each does once its checks pass, and
its frame. -/

namespace Sys2Proof.Machine

variable {s : State}

/-! ### EXECUTE -/

/-- A command that CHECK stops takes the fault and does nothing else. -/
theorem exec_of_check_ne_none {i : Instr} (h : check (.ok i) s.command.len s.arch ≠ .none) :
    exec i s = .next (s.raiseFault (check (.ok i) s.command.len s.arch)) := by
  cases i with
  | init => exact absurd rfl h
  | block => exact guarded_of_ne h _ _
  | final l => exact guarded_of_ne h _ _

/-- A command that passes CHECK leaves ABSORB or DONE. -/
theorem effectArch_phase_ne_fault {i : Instr} {c : Command} {a : Arch} (h : check (.ok i) c.len a = .none) :
    (effectArch i c a).phase ≠ .fault := by
  cases i with
  | init => simp [effectArch]
  | block =>
    obtain ⟨hphase, -⟩ := check_block_eq_none.1 h
    simp [effectArch, hphase]
  | final l => simp [effectArch]

/-- Settles O21, by what the sampled word decodes to: CHECK passes a reserved word's code on, and for a decoded command it
is the guard of that command's meaning. -/
theorem executeChecksThenRuns : Obligations.ExecuteChecksThenRuns := by
  intro s
  rcases execute_cases s with ⟨code, hdec, hcode, heq⟩ | ⟨i, hdec, hwf, heq⟩
  · simp only [hdec, check]
    exact ⟨fun _ => heq, fun hnone => absurd hnone hcode⟩
  · rw [hdec]
    refine ⟨fun hfault => ?_, fun hpass => ?_⟩
    · rw [heq, exec_of_check_ne_none (by simpa using hfault)]
      simp
    · obtain ⟨t, ht, harch, -⟩ := exec_summary hwf s.loadBlkBuf (by simp)
      refine ⟨i, t, rfl, heq, ht, ?_⟩
      rw [harch]
      simp only [State.loadBlkBuf_command, State.loadBlkBuf_arch, if_pos hpass]
      exact effectArch_phase_ne_fault hpass

/-- Settles O19: of the five kinds of edge this is the completing one, and `complete_of_decode` says what it runs. -/
theorem completingEdgeRunsDecodedCommand : Obligations.CompletingEdgeRunsDecodedCommand := by
  intro s i hrst hbusy hlast hdec
  rw [step_of_completing hrst hbusy hlast]
  exact complete_of_decode (by simpa using hdec)

/-! ### INIT and BLOCK -/

/-- Settles O23: INIT has one outcome, `startDigest`, in every phase. -/
theorem initStartsDigest : Obligations.InitStartsDigest :=
  fun s => ⟨s.startDigest, execInit_eq s, rfl, rfl, rfl, rfl, rfl, rfl, by simp [SameAround]⟩

theorem exec_block_of_check (hphase : s.arch.phase = .absorb) (hlimit : s.arch.byteCount.toNat + 64 ≤ maxMsgBytes) :
    exec .block s = .next (s.select .din).compressSelected.countBlock := by
  rcases execBlock_cases s with ⟨hfault, -⟩ | ⟨-, -, heq⟩
  · exact absurd (check_block_eq_none.2 ⟨hphase, hlimit⟩) hfault
  · exact heq

/-- Settles O24: the multiplexer at DIN selects `blk_buf`, and within the length limit the 64-bit byte_count does not
wrap. -/
theorem blockAbsorbsBlock : Obligations.BlockAbsorbsBlock := by
  intro s hphase hlimit
  refine ⟨_, exec_block_of_check hphase hlimit, by simp [Hidden.selected], ?_, by simp [SameAround, hphase]⟩
  rw [State.countBlock_arch_byteCount, State.compressSelected_arch_byteCount, State.select_arch]
  exact BitVec.toNat_add_of_lt (Nat.lt_of_le_of_lt hlimit (by decide))

/-! ### FINAL -/

/-- Where a FINAL that passes its checks ends, with N = n and P = p. -/
def State.finalized (n : Nat) (p : List Byte) (s : State) : State :=
  ((s.writePad p).compressPadding n).finishDigest n

theorem exec_final_of_check {l : Nat} (hl : l ≤ 63) (hphase : s.arch.phase = .absorb)
    (hlimit : s.command.len.toNat ≤ maxMsgBytes) (hlen : s.command.len.toNat = s.arch.byteCount.toNat + l) :
    ∃ p, pad (tail l s.hidden.blkBuf) l s.command.len.toNat = .ok (padLength l, p) ∧ p.length = padLength l ∧
      exec (.final l) s = .next (s.finalized (padLength l) p) := by
  rcases execFinal_cases hl s with ⟨hfault, -⟩ | ⟨-, -, -, hrun⟩
  · exact absurd (check_final_eq_none.2 ⟨hphase, hlimit, hlen⟩) hfault
  · exact hrun

theorem State.finalized_h {l : Nat} {p : List Byte} (hp : p.length = padLength l) (s : State) :
    (s.finalized (padLength l) p).arch.h =
      if padLength l = 128 then compress (compress s.arch.h (blockAt p 0)) (blockAt p 1)
      else compress s.arch.h (blockAt p 0) := by
  rw [State.finalized, State.finishDigest_arch_h, compressPadding_h hp]

/-- What FINAL writes besides H and `mux_sel`, and what it leaves alone. -/
theorem State.finalized_frame (n : Nat) (p : List Byte) (s : State) :
    (s.finalized n p).arch.npad = BitVec.ofNat 2 (n / 64) ∧ (s.finalized n p).arch.byteCount = s.command.len ∧
    (s.finalized n p).arch.phase = .done ∧ (s.finalized n p).arch.errCode = s.arch.errCode ∧
    (s.finalized n p).hidden.padBuf = overwritePad p s.hidden.padBuf ∧
    (s.finalized n p).hidden.blkBuf = s.hidden.blkBuf ∧ SameAround s (s.finalized n p) := by
  simp [State.finalized, SameAround, State.compressPadding_frame]

theorem padLength_of_le {l : Nat} (h : l ≤ 55) : padLength l = 64 := if_pos (by omega)

theorem padLength_of_ge {l : Nat} (h : 56 ≤ l) : padLength l = 128 := if_neg (by omega)

/-- Settles O25: with N = 64 the only compression is the one of PAD0, and the 64 bytes of P end where
`pad_buf[64..128)` begins. -/
theorem finalPadsOneBlock : Obligations.FinalPadsOneBlock := by
  intro s l hl hphase hlimit hlen
  obtain ⟨p, hpad, hlength, heq⟩ := exec_final_of_check (by omega) hphase hlimit hlen
  have hh := s.finalized_h hlength
  rw [padLength_of_le hl] at hpad hlength heq hh
  obtain ⟨npad, byteCount, phase, errCode, padBuf, blkBuf, around⟩ := s.finalized_frame 64 p
  refine ⟨_, p, heq, hpad, hh.trans (if_neg (by decide)), npad, byteCount, phase, errCode, ?_, fun i hi => ?_, blkBuf,
    around⟩
  · simp [State.finalized, State.compressPadding_64]
  · simp only [padBuf, overwritePad_getElem]
    split
    · next hin => simp [hlength, hin]
    · next hout => simp [hlength, hout]

/-- Settles O26: with N = 128 PAD1 is compressed after PAD0, and P fills `pad_buf`. -/
theorem finalPadsTwoBlocks : Obligations.FinalPadsTwoBlocks := by
  intro s l hlo hhi hphase hlimit hlen
  obtain ⟨p, hpad, hlength, heq⟩ := exec_final_of_check hhi hphase hlimit hlen
  have hh := s.finalized_h hlength
  rw [padLength_of_ge hlo] at hpad hlength heq hh
  obtain ⟨npad, byteCount, phase, errCode, padBuf, blkBuf, around⟩ := s.finalized_frame 128 p
  refine ⟨_, p, heq, hpad, hh.trans (if_pos rfl), npad, byteCount, phase, errCode, ?_, fun i hi => ?_, blkBuf, around⟩
  · simp [State.finalized, State.compressPadding_128]
  · rw [padBuf, overwritePad_getElem]
    simp [hlength, hi]

end Sys2Proof.Machine
end

section
/-! Commands as atomic steps, one after another (20_memory.md R59): the registers they leave are a function of the
registers before them. A finished digest (43_commands.md R166), and INIT's fresh start (R169). -/

namespace Sys2Proof.Machine

/-- The registers after some commands. -/
def archAfterAll (cs : List Command) (a : Arch) : Arch := cs.foldl (fun a c => archAfter c a) a

theorem archAfterAll_cons (c : Command) (cs : List Command) (a : Arch) :
    archAfterAll (c :: cs) a = archAfterAll cs (archAfter c a) := rfl

theorem archAfterAll_append (cs cs' : List Command) (a : Arch) :
    archAfterAll (cs ++ cs') a = archAfterAll cs' (archAfterAll cs a) := List.foldl_append

/-- One command as an atomic step. -/
theorem transact_summary (c : Command) (s : State) :
    ∃ t, transact c s = .next t ∧ t.arch = archAfter c s.arch ∧ t.busy = false := by
  obtain ⟨t, ht, arch, busy, -⟩ := complete_summary { s with command := c }
  exact ⟨t, ht, arch, busy⟩

theorem runCommands_cons {c : Command} {s t : State} (h : transact c s = .next t) (cs : List Command) :
    runCommands (c :: cs) s = runCommands cs t := by
  simp [runCommands, h]

/-- A run of commands answers a next state, with the registers of `archAfterAll`. -/
theorem runCommands_summary (cs : List Command) (s : State) :
    ∃ t, runCommands cs s = .next t ∧ t.arch = archAfterAll cs s.arch ∧ (s.busy = false → t.busy = false) := by
  induction cs generalizing s with
  | nil => exact ⟨s, rfl, rfl, id⟩
  | cons c cs ih =>
    obtain ⟨u, hu, harch, hbusy⟩ := transact_summary c s
    obtain ⟨t, ht, harch', hbusy'⟩ := ih u
    exact ⟨t, (runCommands_cons hu cs).trans ht, by rw [harch', harch, archAfterAll_cons], fun _ => hbusy' hbusy⟩

/-! ### A finished digest -/

/-- Outside ABSORB every command but INIT is out of sequence. -/
theorem check_of_phase_ne_absorb {i : Instr} (hi : i ≠ .init) {a : Arch} (hphase : a.phase ≠ .absorb) (len : Word64) :
    check (.ok i) len a = .sequence := by
  cases i with
  | init => exact absurd rfl hi
  | block => exact if_pos hphase
  | final l => exact if_pos hphase

@[simp] theorem Arch.raiseFault_errCode (code : ErrCode) (a : Arch) :
    (a.raiseFault code).errCode = if a.phase = .fault then a.errCode else code := rfl

/-- Settles O28: DONE is not ABSORB, so CHECK lets no command but INIT pass, and taking a fault keeps H, byte_count and
npad. -/
theorem finishedDigestIsClosed : Obligations.FinishedDigestIsClosed := by
  intro s c hphase hbusy
  refine ⟨by simp [State.digestValid, hphase, hbusy], State.digestPort_of_not_busy _ hbusy, fun hinit => ?_⟩
  have hseq : ∀ i, decode c.cmdWord = .ok i → check (decode c.cmdWord) c.len s.arch = .sequence := fun i hdec => by
    rw [hdec] at hinit ⊢
    exact check_of_phase_ne_absorb (fun hi => hinit (hi ▸ rfl)) (by simp [hphase]) _
  obtain ⟨t, ht, harch, -⟩ := transact_summary c s
  rcases archAfter_cases c s.arch with ⟨-, hfault⟩ | ⟨i, hdec, hpass, -⟩
  · rw [hfault] at harch
    refine ⟨t, ht, by simp [harch], by simp [harch], by simp [harch], by simp [harch],
      by simp [State.digestValid, harch], fun ⟨i, hdec⟩ => ?_⟩
    simp [harch, hphase, hseq i hdec]
  · rw [← hdec, hseq i hdec] at hpass
    cases hpass

/-! ### INIT forgets -/

theorem archAfter_of_pass {c : Command} {i : Instr} {a : Arch} (hdec : decode c.cmdWord = .ok i)
    (hpass : check (.ok i) c.len a = .none) : archAfter c a = effectArch i c a := by
  simp [archAfter, hdec, hpass]

theorem archAfter_init {c : Command} (hdec : decode c.cmdWord = .ok .init) (a : Arch) : archAfter c a = Arch.started :=
  archAfter_of_pass hdec rfl

/-- A run that starts with INIT: its registers do not depend on those before it. -/
theorem runCommands_init {c : Command} (hdec : decode c.cmdWord = .ok .init) (cs : List Command) (s : State) :
    ∃ t, runCommands (c :: cs) s = .next t ∧ t.arch = archAfterAll cs Arch.started ∧ t.busy = false := by
  obtain ⟨u, hu, harch, hbusy⟩ := transact_summary c s
  obtain ⟨t, ht, harch', hbusy'⟩ := runCommands_summary cs u
  rw [harch, archAfter_init hdec] at harch'
  exact ⟨t, (runCommands_cons hu cs).trans ht, harch', hbusy' hbusy⟩

/-- Settles O54: both runs end in the registers of `runCommands_init`, and once `busy` is 0 the ports show no more than
those. -/
theorem initForgetsHistory : Obligations.InitForgetsHistory := by
  intro cs c s s' hdec
  obtain ⟨t, ht, harch, hbusy⟩ := runCommands_init hdec cs s
  obtain ⟨t', ht', harch', hbusy'⟩ := runCommands_init hdec cs s'
  have heq : t'.arch = t.arch := harch'.trans harch.symm
  exact ⟨t, t', ht, ht', heq, ports_eq_of_arch_eq hbusy hbusy' heq⟩

end Sys2Proof.Machine
end

section
/-! Whole messages: SHA1(m) and the commands of HASH and of the file driver (43_commands.md R165, R167, R168). -/

namespace Sys2Proof.Machine

variable {m : List Byte}

/-! ### Blocks and tail of a message -/

theorem and_63_eq_mod (n : Nat) : n &&& 63 = n % 64 := Nat.and_two_pow_sub_one_eq_mod n 6

theorem completeBlocks_eq (m : List Byte) : completeBlocks m = (List.range (m.length / 64)).map (blockAt m) := by
  rw [completeBlocks, Nat.shiftRight_eq_div_pow]

theorem completeBlocks_length (m : List Byte) : (completeBlocks m).length = m.length / 64 := by
  simp [completeBlocks_eq]

theorem tailBytes_eq (m : List Byte) : tailBytes m = m.drop (64 * (m.length / 64)) := by
  rw [tailBytes, Nat.shiftRight_eq_div_pow]

theorem tailBytes_length (m : List Byte) : (tailBytes m).length = m.length % 64 := by
  rw [tailBytes_eq, List.length_drop]
  omega

/-! ### SHA1 -/

/-- A message within the limit is inside PAD's domain. -/
theorem pad_tailBytes (hm : m.length ≤ maxMsgBytes) :
    pad (tailBytes m) (m.length % 64) m.length = .ok (padLength (m.length % 64),
      (List.range (padLength (m.length % 64))).map (padByte (tailBytes m) (m.length % 64) m.length)) :=
  pad_of_domain ⟨tailBytes_length m, by omega, hm⟩

theorem sha1_of_pad {n : Nat} {p : List Byte} (h : pad (tailBytes m) (m.length % 64) m.length = .ok (n, p)) :
    sha1 m = .ok ((completeBlocks m ++ paddingBlocks n p).foldl compress Acc.iv) := by
  rw [sha1, and_63_eq_mod, h]

/-- Settles O52: PAD answers on the tail of a message within the limit, and then SHA1 is the fold it is defined as. -/
theorem sha1FoldsCompress : Obligations.Sha1FoldsCompress := by
  intro m hm
  obtain ⟨n, p, hpad⟩ : ∃ n p, pad (tailBytes m) (m.length % 64) m.length = .ok (n, p) := ⟨_, _, pad_tailBytes hm⟩
  have hsha := sha1_of_pad hpad
  rw [completeBlocks_eq] at hsha
  rw [tailBytes_eq] at hpad
  refine ⟨n, p, hpad, hsha, fun k i hi hin => ?_⟩
  rw [blockAt_getElem _ _ _ hi]
  simp [hin]

/-! ### The commands of HASH -/

/-- The registers in ABSORB once some blocks have been compressed since INIT. -/
def Arch.absorbed (bs : List Block) : Arch :=
  ⟨bs.foldl compress Acc.iv, .absorb, BitVec.ofNat 64 (64 * bs.length), .none, 0⟩

/-- BLOCK carries the 64 bytes of its block. -/
theorem laneBlock_packLanes_toList (b : Block) : laneBlock (packLanes b.toList) = b :=
  Vector.ext fun i hi => by simp [laneBlock_packLanes _ _ hi, hi]

/-- FINAL carries the bytes of its tail. -/
theorem tail_laneBlock_packLanes {t : List Byte} {l : Nat} (ht : t.length = l) (hl : l ≤ 63) :
    tail l (laneBlock (packLanes t)) = t := by
  refine List.ext_getElem (by simp [tail]; omega) fun i _ hi => ?_
  simp [tail, laneBlock_packLanes _ i (by omega), hi]

theorem decode_init_word : decode 0x00000001#32 = .ok .init := by decide

theorem decode_block_word : decode 0x00000002#32 = .ok .block := by decide

theorem archAfter_block {bs : List Block} (b : Block) (h : 64 * (bs.length + 1) ≤ maxMsgBytes) :
    archAfter (Command.block b.toList) (Arch.absorbed bs) = Arch.absorbed (bs ++ [b]) := by
  have hcount : (Arch.absorbed bs).byteCount.toNat = 64 * bs.length :=
    toNat_ofNat_of_lt (by unfold maxMsgBytes at h; omega)
  have hpass : check (.ok .block) (Command.block b.toList).len (Arch.absorbed bs) = .none :=
    check_block_eq_none.2 ⟨rfl, by omega⟩
  rw [archAfter_of_pass decode_block_word hpass]
  simp [effectArch, Command.block, Arch.absorbed, laneBlock_packLanes_toList, Nat.mul_add, BitVec.ofNat_add]

theorem archAfterAll_blocks (bs : List Block) {done : List Block}
    (h : 64 * (done.length + bs.length) ≤ maxMsgBytes) :
    archAfterAll (bs.map fun b => Command.block b.toList) (Arch.absorbed done) = Arch.absorbed (done ++ bs) := by
  induction bs generalizing done with
  | nil => simp [archAfterAll]
  | cons b bs ih =>
    rw [List.length_cons] at h
    rw [List.map_cons, archAfterAll_cons, archAfter_block b (by omega)]
    simpa using ih (done := done ++ [b]) (by simp; omega)

/-- The registers after INIT and some BLOCKs, whatever they were before. -/
theorem archAfterAll_init_blocks {bs : List Block} (h : 64 * bs.length ≤ maxMsgBytes) (a : Arch) :
    archAfterAll (Command.init :: bs.map fun b => Command.block b.toList) a = Arch.absorbed bs := by
  rw [archAfterAll_cons, archAfter_init decode_init_word]
  exact archAfterAll_blocks (done := []) bs (by simpa using h)

/-- R27's npad as a number of padding blocks. -/
theorem ofNat_padLength_div (l : Nat) : BitVec.ofNat 2 (padLength l / 64) = if l < 56 then 1 else 2 := by
  unfold padLength
  split <;> rfl

theorem finalAcc_eq_foldl (l : Nat) (c : Command) (h : Acc) :
    finalAcc l c h = (paddingBlocks (padLength l) (finalPadding l c)).foldl compress h := by
  unfold finalAcc paddingBlocks
  split <;> rfl

/-- A FINAL triple decodes to its command. -/
theorem decode_final_cmdWord {l : Nat} (hl : l ≤ 63) (n : Nat) (t : List Byte) :
    decode (Command.final l n t).cmdWord = .ok (.final l) := by
  rw [Command.final_cmdWord hl]
  exact decodeOfEncode _ (by simpa [Instr.wellFormed] using hl)

/-- The last command of HASH, on the registers that the blocks before it leave. -/
theorem archAfter_final_hash (hm : m.length ≤ maxMsgBytes) :
    ∃ h, sha1 m = .ok h ∧
      archAfter (Command.final (m.length % 64) m.length (tailBytes m)) (Arch.absorbed (completeBlocks m)) =
        ⟨h, .done, BitVec.ofNat 64 m.length, .none, if m.length % 64 < 56 then 1 else 2⟩ := by
  have hl : m.length % 64 ≤ 63 := by omega
  have hlen : (Command.final (m.length % 64) m.length (tailBytes m)).len.toNat = m.length :=
    toNat_ofNat_of_lt (by unfold maxMsgBytes at hm; omega)
  have hcount : (Arch.absorbed (completeBlocks m)).byteCount.toNat = 64 * (m.length / 64) := by
    rw [← completeBlocks_length]
    exact toNat_ofNat_of_lt (by rw [completeBlocks_length]; unfold maxMsgBytes at hm; omega)
  have hpadding : finalPadding (m.length % 64) (Command.final (m.length % 64) m.length (tailBytes m)) =
      (List.range (padLength (m.length % 64))).map (padByte (tailBytes m) (m.length % 64) m.length) := by
    rw [finalPadding, hlen, Command.final, tail_laneBlock_packLanes (tailBytes_length m) hl]
  refine ⟨_, sha1_of_pad (pad_tailBytes hm), ?_⟩
  rw [archAfter_of_pass (decode_final_cmdWord hl _ _) (check_final_eq_none.2 ⟨rfl, by omega, by omega⟩)]
  simp only [effectArch, finalAcc_eq_foldl, hpadding, ofNat_padLength_div, List.foldl_append]
  rfl

theorem hashCommands_eq (m : List Byte) :
    hashCommands m = (Command.init :: (completeBlocks m).map fun b => Command.block b.toList) ++
      [Command.final (m.length % 64) m.length (tailBytes m)] := by
  rw [hashCommands, and_63_eq_mod]

/-- The registers after HASH m, whatever they were before. -/
theorem archAfterAll_hashCommands (hm : m.length ≤ maxMsgBytes) (a : Arch) :
    ∃ h, sha1 m = .ok h ∧ archAfterAll (hashCommands m) a =
      ⟨h, .done, BitVec.ofNat 64 m.length, .none, if m.length % 64 < 56 then 1 else 2⟩ := by
  obtain ⟨h, hsha, hfinal⟩ := archAfter_final_hash hm
  have hblocks := archAfterAll_init_blocks (bs := completeBlocks m) (by rw [completeBlocks_length]; omega) a
  refine ⟨h, hsha, ?_⟩
  rw [hashCommands_eq, archAfterAll_append, hblocks]
  exact hfinal

/-- An initial part of HASH's commands that is not empty is INIT and some of the BLOCKs, or the whole. -/
theorem take_hashCommands (m : List Byte) (k : Nat) :
    (hashCommands m).take (k + 1) =
        Command.init :: ((completeBlocks m).take k).map (fun b => Command.block b.toList) ∨
      (hashCommands m).take (k + 1) = hashCommands m := by
  rcases Nat.lt_or_ge (completeBlocks m).length k with hlt | hle
  · exact .inr (List.take_of_length_le (by simpa [hashCommands] using hlt))
  · refine .inl ?_
    rw [hashCommands_eq, List.take_append_of_le_length (by simpa using hle), List.take_succ_cons, List.map_take]

/-- On the way through HASH m the phase is ABSORB, and DONE at its end. -/
theorem archAfterAll_take_hashCommands_phase (hm : m.length ≤ maxMsgBytes) (k : Nat) (a : Arch) :
    (archAfterAll ((hashCommands m).take (k + 1)) a).phase ≠ .fault := by
  rcases take_hashCommands m k with hblocks | hall
  · rw [hblocks, archAfterAll_init_blocks (by rw [List.length_take, completeBlocks_length]; omega)]
    simp [Arch.absorbed]
  · obtain ⟨h, -, harch⟩ := archAfterAll_hashCommands hm a
    simp [hall, harch]

/-- Settles O53: the run has the registers of `archAfterAll`, and once `busy` is 0 the ports show them. -/
theorem hashEndsInDigest : Obligations.HashEndsInDigest := by
  intro m s hm hbusy
  obtain ⟨t, ht, harch, hfree⟩ := runCommands_summary (hashCommands m) s
  obtain ⟨h, hsha, hend⟩ := archAfterAll_hashCommands hm s.arch
  rw [hend] at harch
  refine ⟨t, h, ht, hsha, by simp [harch], by simp [harch], ?_, by simp [harch], hfree hbusy,
    by simp [State.digestValid, harch, hfree hbusy], ?_, fun k hk => ?_⟩
  · rw [harch]
    exact toNat_ofNat_of_lt (by omega)
  · rw [State.digestPort_of_not_busy _ (hfree hbusy), harch]
    rfl
  · obtain ⟨j, rfl⟩ := Nat.exists_eq_add_of_le' hk
    obtain ⟨u, hu, hphase, -⟩ := runCommands_summary ((hashCommands m).take (j + 1)) s
    exact ⟨u, hu, hphase ▸ archAfterAll_take_hashCommands_phase hm j s.arch⟩

/-! ### The file driver -/

variable {x y : List Byte}

/-- Block k of a first part made of complete blocks is block k of the whole. -/
theorem blockAt_append_left {k : Nat} (hk : 64 * k + 64 ≤ x.length) : blockAt (x ++ y) k = blockAt x k := by
  refine Vector.ext fun i hi => ?_
  rw [blockAt_getElem _ _ _ hi, blockAt_getElem _ _ _ hi, List.getD_append _ _ _ _ (by omega)]

/-- After a first part of q complete blocks, block q + k of the whole is block k of the rest. -/
theorem blockAt_append_right {q : Nat} (hx : x.length = 64 * q) (k : Nat) :
    blockAt (x ++ y) (q + k) = blockAt y k := by
  refine Vector.ext fun i hi => ?_
  rw [blockAt_getElem _ _ _ hi, blockAt_getElem _ _ _ hi, List.getD_append_right _ _ _ _ (by omega)]
  congr 1
  omega

/-- A first part made of complete blocks can be split off. -/
theorem completeBlocks_append (hx : x.length % 64 = 0) :
    completeBlocks (x ++ y) = completeBlocks x ++ completeBlocks y := by
  obtain ⟨q, hq⟩ := Nat.dvd_of_mod_eq_zero hx
  have hcount : (x ++ y).length / 64 = q + y.length / 64 := by rw [List.length_append]; omega
  have hcount' : x.length / 64 = q := by omega
  rw [completeBlocks_eq, completeBlocks_eq, completeBlocks_eq, hcount, hcount', List.range_add, List.map_append,
    List.map_map]
  congr 1
  · refine List.map_congr_left fun k hk => blockAt_append_left ?_
    have := List.mem_range.1 hk
    omega
  · exact List.map_congr_left fun k _ => blockAt_append_right hq k

theorem tailBytes_append (hx : x.length % 64 = 0) : tailBytes (x ++ y) = tailBytes y := by
  have hcount : 64 * ((x ++ y).length / 64) = x.length + 64 * (y.length / 64) := by rw [List.length_append]; omega
  rw [tailBytes_eq, tailBytes_eq, hcount, List.drop_length_add_append]

/-- Full chunks are complete blocks. -/
theorem length_take_chunks_mod {c n : Nat} (hc : c % 64 = 0) (hn : c * n ≤ m.length) :
    (m.take (c * n)).length % 64 = 0 := by
  rw [List.length_take, Nat.min_eq_left hn]
  exact Nat.mod_eq_zero_of_dvd ((Nat.dvd_of_mod_eq_zero hc).mul_right n)

/-- The blocks of the first n chunks, one chunk at a time, are those of the bytes the chunks hold. -/
theorem flatMap_completeBlocks_chunks {c n : Nat} (hc : c % 64 = 0) (hn : c * n ≤ m.length) :
    (List.range n).flatMap (fun j => completeBlocks ((m.drop (c * j)).take c)) = completeBlocks (m.take (c * n)) := by
  induction n with
  | zero => simp [completeBlocks]
  | succ n ih =>
    have hn' : c * n ≤ m.length := (Nat.mul_le_mul_left c n.le_succ).trans hn
    rw [List.range_succ, List.flatMap_append, ih hn', Nat.mul_succ, List.take_add,
      completeBlocks_append (length_take_chunks_mod hc hn')]
    simp

/-- Settles O55: the full chunks are a first part of complete blocks, which splits off from the blocks of the message and
leaves its tail as it is. -/
theorem chunkSizeDoesNotMatter : Obligations.ChunkSizeDoesNotMatter := by
  intro c m _ hc
  have hfull : c * (m.length / c) ≤ m.length := Nat.mul_div_le _ _
  have hfirst := length_take_chunks_mod hc hfull
  have hblocks := completeBlocks_append (y := m.drop (c * (m.length / c))) hfirst
  have htail := tailBytes_append (y := m.drop (c * (m.length / c))) hfirst
  rw [List.take_append_drop] at hblocks htail
  have hlength : (m.drop (c * (m.length / c))).length % 64 = m.length % 64 := by
    rw [← tailBytes_length, ← htail, tailBytes_length]
  rw [fileCommands, hashCommands_eq, flatMap_completeBlocks_chunks hc hfull, ← hblocks, ← htail, and_63_eq_mod, hlength]

end Sys2Proof.Machine
end

section
/-! CHECK by its branches (60_exceptions.md R202), and which fault it reports. -/

namespace Sys2Proof.Machine

/-- The decoder has two faults of its own. -/
theorem decode_error_cases {w : Word32} {code : ErrCode} (h : decode w = .error code) :
    code = .illegalOp ∨ code = .reservedBits := by
  unfold decode at h
  split_ifs at h <;> cases h
  · exact .inr rfl
  · exact .inr rfl
  · exact .inr rfl
  · exact .inl rfl

theorem check_block_of_over {len : Word64} {a : Arch} (hphase : a.phase = .absorb)
    (hover : a.byteCount.toNat + 64 > maxMsgBytes) : check (.ok .block) len a = .lenRange := by
  simp [check, hphase, hover]

theorem check_final_of_over {l : Nat} {len : Word64} {a : Arch} (hphase : a.phase = .absorb)
    (hover : len.toNat > maxMsgBytes) : check (.ok (.final l)) len a = .lenRange := by
  simp [check, hphase, hover]

theorem check_final_of_mismatch {l : Nat} {len : Word64} {a : Arch} (hphase : a.phase = .absorb)
    (hlimit : len.toNat ≤ maxMsgBytes) (hlen : len.toNat ≠ a.byteCount.toNat + l) :
    check (.ok (.final l)) len a = .lenMismatch := by
  simp [check, hphase, hlen, Nat.not_lt.2 hlimit]

theorem check_block_cases (len : Word64) (a : Arch) :
    (a.phase ≠ .absorb ∧ check (.ok .block) len a = .sequence) ∨
    (a.phase = .absorb ∧ a.byteCount.toNat + 64 > maxMsgBytes ∧ check (.ok .block) len a = .lenRange) ∨
    (a.phase = .absorb ∧ a.byteCount.toNat + 64 ≤ maxMsgBytes ∧ check (.ok .block) len a = .none) := by
  by_cases hphase : a.phase = .absorb
  · rcases Nat.lt_or_ge maxMsgBytes (a.byteCount.toNat + 64) with hover | hlimit
    · exact .inr (.inl ⟨hphase, hover, check_block_of_over hphase hover⟩)
    · exact .inr (.inr ⟨hphase, hlimit, check_block_eq_none.2 ⟨hphase, hlimit⟩⟩)
  · exact .inl ⟨hphase, if_pos hphase⟩

theorem check_final_cases (l : Nat) (len : Word64) (a : Arch) :
    (a.phase ≠ .absorb ∧ check (.ok (.final l)) len a = .sequence) ∨
    (a.phase = .absorb ∧ len.toNat > maxMsgBytes ∧ check (.ok (.final l)) len a = .lenRange) ∨
    (a.phase = .absorb ∧ len.toNat ≤ maxMsgBytes ∧ len.toNat ≠ a.byteCount.toNat + l ∧
      check (.ok (.final l)) len a = .lenMismatch) ∨
    (a.phase = .absorb ∧ len.toNat ≤ maxMsgBytes ∧ len.toNat = a.byteCount.toNat + l ∧
      check (.ok (.final l)) len a = .none) := by
  by_cases hphase : a.phase = .absorb
  · rcases Nat.lt_or_ge maxMsgBytes len.toNat with hover | hlimit
    · exact .inr (.inl ⟨hphase, hover, check_final_of_over hphase hover⟩)
    · by_cases hlen : len.toNat = a.byteCount.toNat + l
      · exact .inr (.inr (.inr ⟨hphase, hlimit, hlen, check_final_eq_none.2 ⟨hphase, hlimit, hlen⟩⟩))
      · exact .inr (.inr (.inl ⟨hphase, hlimit, hlen, check_final_of_mismatch hphase hlimit hlen⟩))
  · exact .inl ⟨hphase, if_pos hphase⟩

/-- Settles O30, by what the word decodes to: a reserved word's code is the decoder's, INIT has no check, and BLOCK and
FINAL have the branches of `check_block_cases` and `check_final_cases`, each of which decides all six clauses. -/
theorem checkReportsFirstFault : Obligations.CheckReportsFirstFault := by
  intro w len a
  have hmax : 2 ^ 61 - 1 = maxMsgBytes := rfl
  rw [hmax]
  cases hdec : decode w with
  | error code =>
    rcases decode_error_cases hdec with rfl | rfl
    · simp [check]
    · simp [check]
  | ok i =>
    cases i with
    | init => simp [check]
    | block =>
      rcases check_block_cases len a with ⟨hphase, e⟩ | ⟨hphase, hover, e⟩ | ⟨hphase, hlimit, e⟩
      · simp [e, hphase]
      · simp [e, hphase, hover]
      · simp [e, hphase, hlimit]
    | final l =>
      rcases check_final_cases l len a with
        ⟨hphase, e⟩ | ⟨hphase, hover, e⟩ | ⟨hphase, hlimit, hlen, e⟩ | ⟨hphase, hlimit, hlen, e⟩
      · simp [e, hphase]
      · simp [e, hphase, hover]
      · simp [e, hphase, hlimit, hlen]
      · simp [e, hphase, ← hlen, hlimit]

end Sys2Proof.Machine
end

section
/-! Taking a fault (60_exceptions.md R203, R204, R206), leaving FAULT (R205), and what needs neither: that a
step never stops (R200), and the idle edge (R215). -/

namespace Sys2Proof.Machine

variable {s : State}

/-! ### Edges -/

/-- Settles O22: whatever kind of edge it is, a step answers a next state, as `everyStepUsesOneEdgeOfWires` found by
`step_cases` and `complete_summary`. -/
theorem everyStepAnswersNext : Obligations.EveryStepAnswersNext := by
  intro s
  obtain ⟨t, ht, -⟩ := everyStepUsesOneEdgeOfWires s
  exact ⟨t, ht⟩

/-- Settles O4: of the five kinds of edge this is the idle one, which only uses up the wires. -/
theorem idleEdgeChangesNothing : Obligations.IdleEdgeChangesNothing := by
  intro s hrst hfree hinvalid
  exact ⟨_, step_of_idle hrst hfree hinvalid, by simp [hfree]⟩

/-! ### Taking a fault -/

/-- In FAULT the first code is kept (R206). -/
theorem Arch.raiseFault_of_fault {a : Arch} (h : a.phase = .fault) (code : ErrCode) : a.raiseFault code = a := by
  cases a
  cases h
  rfl

theorem State.raiseFault_of_fault (h : s.arch.phase = .fault) (code : ErrCode) : s.raiseFault code = s := by
  rw [State.raiseFault, Arch.raiseFault_of_fault h]

theorem State.raiseFault_of_ne_fault (h : s.arch.phase ≠ .fault) (code : ErrCode) :
    s.raiseFault code = { s with arch := { s.arch with errCode := code, phase := .fault } } := by
  rw [State.raiseFault, Arch.raiseFault, if_neg h]

theorem exec_of_check {i : Instr} {code : ErrCode} (hcheck : check (.ok i) s.command.len s.arch = code)
    (hcode : code ≠ .none) : exec i s = .next (s.raiseFault code) := by
  subst hcheck
  exact exec_of_check_ne_none hcode

/-- A command stopped outside FAULT records its code. -/
theorem exec_enters_fault {i : Instr} {code : ErrCode} (hcheck : check (.ok i) s.command.len s.arch = code)
    (hcode : code ≠ .none) (hphase : s.arch.phase ≠ .fault) :
    exec i s = .next { s with arch := { s.arch with errCode := code, phase := .fault } } := by
  rw [exec_of_check hcheck hcode, State.raiseFault_of_ne_fault hphase]

/-- Every command but INIT is out of sequence in FAULT, where the fault changes nothing. -/
theorem exec_in_fault {i : Instr} (hi : i ≠ .init) (hphase : s.arch.phase = .fault) : exec i s = .next s := by
  rw [exec_of_check (check_of_phase_ne_absorb hi (by simp [hphase]) _) (by decide), State.raiseFault_of_fault hphase]

/-- Settles O31: CHECK answers SEQUENCE outside ABSORB, and inside it the length fault of each clause; the command then
takes that fault (`exec_enters_fault`), or in FAULT changes nothing (`exec_in_fault`). -/
theorem commandFaultsChangeOnlyCodeAndPhase : Obligations.CommandFaultsChangeOnlyCodeAndPhase := by
  intro s l
  refine ⟨fun hclosed => ?_, fun hphase => ⟨exec_in_fault (by simp) hphase, exec_in_fault (by simp) hphase⟩,
    fun hphase hover => ?_, fun hphase hover => ?_, fun hphase hlimit hlen => ?_⟩
  · obtain ⟨habsorb, hfault⟩ : s.arch.phase ≠ .absorb ∧ s.arch.phase ≠ .fault := by
      rcases hclosed with h | h <;> simp [h]
    exact ⟨exec_enters_fault (check_of_phase_ne_absorb (by simp) habsorb _) (by decide) hfault,
      exec_enters_fault (check_of_phase_ne_absorb (by simp) habsorb _) (by decide) hfault⟩
  · exact exec_enters_fault (check_block_of_over hphase hover) (by decide) (by simp [hphase])
  · exact exec_enters_fault (check_final_of_over hphase hover) (by decide) (by simp [hphase])
  · exact exec_enters_fault (check_final_of_mismatch hphase hlimit hlen) (by decide) (by simp [hphase])

/-- Settles O33: by `executeChecksThenRuns` a command that ends in FAULT only loaded `blk_buf` and took the fault
CHECK reported. -/
theorem faultsArePrecise : Obligations.FaultsArePrecise := by
  intro s t ht hphase
  obtain ⟨hfault, hpass⟩ := executeChecksThenRuns s
  by_cases hcheck : check (decode s.command.cmdWord) s.command.len s.arch = .none
  · obtain ⟨i, u, -, heq, hu, hne⟩ := hpass hcheck
    cases (heq.trans hu).symm.trans ht
    exact absurd hphase hne
  · cases (hfault hcheck).symm.trans ht
    exact ⟨by simp, by simp, by simp, rfl⟩

/-! ### Reserved words -/

theorem archAfter_of_decode_error {c : Command} {code : ErrCode} (hdec : decode c.cmdWord = .error code) (a : Arch) :
    archAfter c a = a.raiseFault code := by
  simp [archAfter, hdec, check, decode_error_ne_none hdec]

/-- Settles O32: the completing edge takes the decoder's fault on the registers (`archAfter_of_decode_error`), and once
`busy` is 0 the status word shows them. -/
theorem reservedWordEntersFault : Obligations.ReservedWordEntersFault := by
  intro s code hrst hbusy hlast hdec
  obtain ⟨t, ht, harch, hfree, -⟩ := complete_summary s.advance
  rw [archAfter_of_decode_error (by simpa using hdec), State.advance_arch] at harch
  refine ⟨t, (step_of_completing hrst hbusy hlast).trans ht, by simp [harch], by simp [harch], by simp [harch],
    by simp [harch], by simp [harch], hfree, ?_, ?_⟩
  · simp [State.statusPort_of_not_busy _ hfree, harch, Phase.code]
  · simp [State.statusPort_of_not_busy _ hfree]

/-! ### In FAULT -/

/-- In FAULT every command but INIT takes a fault, and the fault changes nothing. -/
theorem archAfter_in_fault {c : Command} {a : Arch} (hphase : a.phase = .fault) (hinit : decode c.cmdWord ≠ .ok .init) :
    archAfter c a = a := by
  rcases archAfter_cases c a with ⟨-, hfault⟩ | ⟨i, hdec, hpass, -⟩
  · rw [hfault, Arch.raiseFault_of_fault hphase]
  · have hi : i ≠ .init := fun hi => hinit (hi ▸ hdec)
    rw [check_of_phase_ne_absorb hi (by simp [hphase])] at hpass
    cases hpass

/-- Settles O35: `archAfter_in_fault` for a command as one atomic step. -/
theorem faultInFaultChangesNothing : Obligations.FaultInFaultChangesNothing := by
  intro s c hphase hinit
  obtain ⟨t, ht, harch, -⟩ := transact_summary c s
  exact ⟨t, ht, harch.trans (archAfter_in_fault hphase hinit)⟩

/-- Settles O34: but for reset only the completing edge writes registers (`step_arch`), and FAULT keeps them unless
its command is INIT (`archAfter_in_fault`), which starts a digest. -/
theorem faultLeftOnlyByInitOrReset : Obligations.FaultLeftOnlyByInitOrReset := by
  intro s t hphase ht hchanged
  cases hrst : s.wires.rst with
  | true =>
    cases (step_of_reset hrst).symm.trans ht
    exact .inl ⟨rfl, by simp⟩
  | false =>
    rcases step_arch ht hrst with same | ⟨hbusy, hlast, harch⟩
    · exact absurd same hchanged
    have hdec : decode s.command.cmdWord = .ok .init := by
      by_contra hinit
      exact hchanged (harch.trans (archAfter_in_fault hphase hinit))
    rw [archAfter_init hdec] at harch
    exact .inr ⟨rfl, hbusy, hlast, hdec, by simp [harch], by simp [harch]⟩

end Sys2Proof.Machine
end

section
/-! Reset edges (70_reset_and_hazards.md R230, R231; 10_state.md R38), and a command from the edge that accepts it to the
edge that completes it (R236). -/

namespace Sys2Proof.Machine

variable {s : State}

/-! ### Reset edges -/

/-- Settles O1: `cmd_ready` needs `rst = 0`, and the edge is a reset edge (`step_of_reset`), with the values of
`Arch.afterReset`. -/
theorem resetEdgeGivesResetValues : Obligations.ResetEdgeGivesResetValues := by
  intro s hrst
  refine ⟨by simp [State.cmdReady, hrst], _, step_of_reset hrst, ?_⟩
  simp [State.cmdReady, Arch.afterReset, Acc.iv]

/-- A reset edge reads nothing but the latencies and what the model has around the block. -/
theorem resetEdge_congr {t : State} (hinputs : t.inputs = s.inputs) (hparams : t.params = s.params)
    (hfree : t.freeIndex = s.freeIndex) : t.resetEdge = s.resetEdge := by
  simp [State.resetEdge, hinputs, hparams, hfree]

/-- Settles O3: both edges are reset edges (`step_of_reset`), and `resetEdge_congr` makes their outcomes equal. -/
theorem resetAbortsWithoutTrace : Obligations.ResetAbortsWithoutTrace := by
  intro s s' hrst hinputs hparams hfree
  have hrst' : s'.wires.rst = true := by rwa [State.wires, hinputs]
  have hsame : s'.advance.resetEdge = s.advance.resetEdge :=
    resetEdge_congr (by simp [hinputs]) (by simp [hparams]) (by simp [hfree])
  exact ⟨_, step_of_reset hrst, hsame ▸ step_of_reset hrst', by simp, by simp⟩

/-! ### The latency table -/

/-- The latency of a command that passes its checks, row by row; N, by which FINAL's rows differ, is PAD's. -/
theorem latency_of_pass {c : Command} {a : Arch} (p : Params) (hpass : check (decode c.cmdWord) c.len a = .none) :
    (decode c.cmdWord = .ok .init → latency c a p = p.latInit) ∧
    (decode c.cmdWord = .ok .block → latency c a p = p.latBlock) ∧
    ∀ l, decode c.cmdWord = .ok (.final l) → latency c a p = if padLength l = 64 then p.latFinal1 else p.latFinal2 := by
  simp only [latency, hpass, ne_eq, not_true_eq_false, if_false]
  refine ⟨fun hdec => by simp [hdec], fun hdec => by simp [hdec], fun l hdec => ?_⟩
  rcases padLength_cases l with ⟨hlength, hl⟩ | ⟨hlength, hl⟩
  · simp [hdec, hlength, hl]
  · simp [hdec, hlength, Nat.not_lt.2 hl]

/-! ### From acceptance to completion -/

theorem State.wires_eq_getD (s : State) : s.wires = s.inputs.getD 0 Wires.idle := List.headD_eq_getD ..

/-- Edges without reset that a command in progress outlasts: they only count down. -/
theorem core_run_counting {j : Nat} (hbusy : s.busy = true) (hmore : j < s.remaining)
    (hrst : ∀ i, i < j → (s.inputs.getD i Wires.idle).rst = false) :
    ∃ t : State, core.run j s = .next t ∧ t.busy = true ∧ t.remaining = s.remaining - j ∧ t.arch = s.arch ∧
      t.command = s.command ∧ t.inputs = s.inputs.drop j := by
  induction j generalizing s with
  | zero => exact ⟨s, rfl, by simp [hbusy]⟩
  | succ j ih =>
    have hfirst : step s = .next s.advance.countDown :=
      step_of_counting (s.wires_eq_getD ▸ hrst 0 (by omega)) hbusy (by omega)
    obtain ⟨t, ht, busy, remaining, arch, command, inputs⟩ := ih (s := s.advance.countDown) (by simpa using hbusy)
      (by simp; omega) (fun i hi => by simpa using hrst (i + 1) (by omega))
    refine ⟨t, (core_run_succ hfirst j).trans ht, busy, ?_, by simpa using arch, by simpa using command, ?_⟩
    · simp [remaining]; omega
    · simp [inputs]

/-- With no reset edge on the way, a command in progress completes as its countdown runs out, and the edge that completes
it writes the registers of its atomic step. -/
theorem core_run_completing (hbusy : s.busy = true) (hremaining : 1 ≤ s.remaining)
    (hrst : ∀ i, i < s.remaining → (s.inputs.getD i Wires.idle).rst = false) :
    ∃ t : State, core.run s.remaining s = .next t ∧ t.arch = archAfter s.command s.arch ∧ t.busy = false := by
  obtain ⟨m, hm⟩ : ∃ m, s.remaining = m + 1 := ⟨s.remaining - 1, by omega⟩
  obtain ⟨u, hu, busy, remaining, arch, command, inputs⟩ :=
    core_run_counting hbusy (j := m) (by omega) fun i hi => hrst i (by omega)
  have hlast : step u = complete u.advance :=
    step_of_completing (by simpa [State.wires_eq_getD, inputs] using hrst m (by omega)) busy (by omega)
  obtain ⟨t, ht, harch, hfree, -⟩ := complete_summary u.advance
  refine ⟨t, ?_, by simpa [arch, command] using harch, hfree⟩
  rw [hm, core_run_add m 1 hu, core_run_succ (hlast.trans ht), core_run_zero]

/-- The edge that accepts a command, with what drives the block from there to the command's completion. -/
theorem step_accepts {w : Wires} {ws : List Wires} (hinputs : s.inputs = w :: ws) (hrst : w.rst = false)
    (hfree : s.busy = false) (hvalid : w.cmdValid = true) :
    ∃ t, step s = .next t ∧ t.arch = s.arch ∧ t.command = w.command ∧ t.busy = true ∧
      t.remaining = latency w.command s.arch s.params ∧ t.inputs = ws := by
  have hwires : s.wires = w := by simp [State.wires, hinputs]
  exact ⟨_, step_of_accepting (hwires ▸ hrst) hfree (hwires ▸ hvalid), by simp [hwires, hinputs]⟩

/-- Settles O13: `latency_of_pass` is the table. After the accepting edge (`step_accepts`) a command counts down
(`core_run_counting`) until it completes (`core_run_completing`), with the registers that `transact` gives it too. -/
theorem commandCompletesAfterLatency : Obligations.CommandCompletesAfterLatency := by
  refine ⟨fun c a p => ⟨fun hfault => if_pos hfault, fun hpass => ?_⟩, ?_,
    fun s hrst => ⟨_, step_of_reset hrst, by simp⟩⟩
  · obtain ⟨hinit, hblock, hfinal⟩ := latency_of_pass p hpass
    exact ⟨hinit, hblock, fun l hdec hlength => by simp [hfinal l hdec, hlength],
      fun l hdec hlength => by simp [hfinal l hdec, hlength]⟩
  · intro s w ws n hparams hfree hrst hvalid hinputs hn hrsts
    obtain ⟨a, ha, arch, command, busy, remaining, rfl⟩ := step_accepts hinputs hrst hfree hvalid
    rw [← hn] at remaining
    constructor
    · intro k hk hkn
      obtain ⟨j, rfl⟩ : ∃ j, k = j + 1 := ⟨k - 1, by omega⟩
      obtain ⟨t, ht, hbusy, -⟩ := core_run_counting (j := j) busy (by omega) fun i hi => hrsts i (by omega)
      exact ⟨t, (core_run_succ ha j).trans ht, hbusy, by simp [State.cmdReady, hbusy]⟩
    · have hpos : 1 ≤ n := hn ▸ latency_pos _ _ hparams
      obtain ⟨t, ht, harch, hdone⟩ := core_run_completing busy (by omega) (by rwa [remaining])
      obtain ⟨u, hu, harch', -⟩ := transact_summary w.command s
      rw [remaining] at ht
      exact ⟨t, u, (core_run_succ ha n).trans ht, hu, by rw [harch, harch', arch, command], hdone⟩

end Sys2Proof.Machine
end
